-- ==== Sys2Proof/Word.lean ====
section
/-! DEFINITION. The widths the specification gives its data (00_scope.md Table P, rule R8; 30_encoding.md rule R80):
bytes, nibbles, console addresses and host request words. Nothing here has a rule of its own; the bit fields of these
words are taken apart in Decode.lean. -/

namespace Sys2Proof

/-- A byte: BYTE_BITS = 8, always unsigned (rule R10). -/
abbrev Byte := BitVec 8

/-- A nibble: NIBBLE_BITS = 4 (Table P). -/
abbrev Nibble := BitVec 4

/-- A console address: ADDR_BITS = 16, unsigned, with no unit (rule R51). -/
abbrev Addr := BitVec 16

/-- A host request word: 48 bits (rule R80). -/
abbrev RequestWord := BitVec 48

end Sys2Proof
end

