-- ==== Sys2Proof/Config.lean ====
section
/-! DEFINITION. What is fixed for the machine: the constants of Table P (00_scope.md rule R8), the OPEN parameters with
a decided default (SPECIAL_ECHO, TIE_POLICY), the OPEN parameter without one (MEMORY_MAP), and the free values. -/

namespace Sys2Proof.Config

/-! ### Table P, the fixed values (rules R6, R8, R9) -/

/-- MAX_WIDTH (decision D7). -/
def maxWidth : Nat := 3
/-- READ_ATTEMPTS. -/
def readAttempts : Nat := 50
/-- HS_ROUNDS: handshake rounds per attempt. -/
def hsRounds : Nat := 100
/-- HS_POLLS: response reads per handshake round. -/
def hsPolls : Nat := 10
/-- BACKOFF_UNIT in milliseconds. It is named in the transcript and the trace only: no time is kept (rule R13). -/
def backoffUnit : Nat := 100
/-- RESET_BYTE. -/
def resetByte : Byte := 0x06
/-- RESP_BUSY. -/
def respBusy : Byte := 0x01
/-- RESP_READY. -/
def respReady : Byte := 0x02
/-- SPECIAL_ADDR. -/
def specialAddr : Addr := 0x0006
/-- ADDR_CODE_BASE. -/
def addrCodeBase : Nat := 0x82
/-- LEN_CODE_BASE. -/
def lenCodeBase : Nat := 0xC2
/-- LEN_CODE_CAP. -/
def lenCodeCap : Nat := 0xFE
/-- ECHO_LEN_BASE. -/
def echoLenBase : Nat := 0x30

/-- TIE_POLICY (rule R173): how a tie in hundredths is rounded. -/
inductive TiePolicy where
  /-- half away from zero on the exact value: the spec's default (decision D13) -/
  | exact
  /-- either neighbour is admitted -/
  | either
  deriving DecidableEq, Repr

/-- The OPEN parameters for which the spec decides a default. Rule R8 says a model takes them as an argument; they
stand in State (no step writes them), so that a statement about every state is a statement about every value of them. -/
structure Params where
  /-- SPECIAL_ECHO (rule R134): `none` is NONE, `some v` is VALUE(v) -/
  specialEcho : Option Byte
  /-- TIE_POLICY (rule R173) -/
  tiePolicy : TiePolicy
  deriving DecidableEq, Repr

/-- The spec's defaults: SPECIAL_ECHO = NONE (D8) and TIE_POLICY = EXACT (D13). -/
def Params.default : Params := { specialEcho := none, tiePolicy := .exact }

/-! ### MEMORY_MAP (rule R54) -/

/-- The 13 named quantities of rule R54. -/
inductive Region where
  | indoorTemperature | outdoorTemperature | dewpoint | windChill
  | indoorHumidity | outdoorHumidity
  | windSpeed | windDirection
  | rain1h | rain24h | rainTotal
  | pressure | pressureTendency
  deriving DecidableEq, Repr

/-- The addresses of MEMORY_MAP: OPEN, with no value in the spec (decision D18). A free value, with no body. -/
opaque memoryMapAddr : Region → Addr

/-- Whether the wind direction region is the wind-speed read itself (width 3) or a byte of its own (width 1): rule R54
leaves both open (90_conflicts.md C3). A free value, with no body. -/
opaque windDirectionIsSpeedRead : Bool

/-! ### Free values -/

/-- TIE_POLICY = EITHER: whether the `n`-th tie drawn is rounded away from zero (rule R173). -/
opaque tieRoundsAway : Nat → Bool

/-- What the channel's receive buffer holds after an event that leaves it unspecified: a block reset (rule R242), and a
flush that fails (rule R11 gives no effect for it). -/
opaque receiveBufferAfter : Nat → List Byte

end Sys2Proof.Config
end

