-- ==== Sys2Proof/Syntax.lean ====
section
/-! DEFINITION. The operation set (rule R2): the 11 host operations and the 11 wire symbols of spec/opcode_table.json,
one constructor per row. Operands are the fields the table leaves open; the fields it fixes are not operands. -/

namespace Sys2Proof

/-- The instructions. A host operation is one 48-bit request word (rule R80), a wire symbol is one byte that the block
sends to the console or accepts from it (rules R86 to R92). -/
inductive Instr where
  /-- READ: width `n`, address `a` (rule R156) -/
  | read (n : Nibble) (a : Addr)
  /-- ENCODE_COMMAND: width `n`, address `a` (rule R132) -/
  | encodeCommand (n : Nibble) (a : Addr)
  /-- EXPECTED_ECHO: position `seq`, command byte `cmd` (rule R135) -/
  | expectedEcho (seq : Nibble) (cmd : Byte)
  /-- CHECK_DATA: length `n`, checksum `c`, data bytes (rule R153) -/
  | checkData (n : Nibble) (c b2 b1 b0 : Byte)
  /-- DECODE_TEMPERATURE (rule R174) -/
  | decodeTemperature (b1 b0 : Byte)
  /-- DECODE_HUMIDITY (rule R175) -/
  | decodeHumidity (b0 : Byte)
  /-- DECODE_WIND_SPEED (rule R176) -/
  | decodeWindSpeed (b2 b1 b0 : Byte)
  /-- DECODE_WIND_DIRECTION: the two open bits of N, and the bytes (rule R177) -/
  | decodeWindDirection (n : BitVec 2) (b2 b1 b0 : Byte)
  /-- DECODE_PRECIPITATION (rule R179) -/
  | decodePrecipitation (b2 b1 b0 : Byte)
  /-- DECODE_PRESSURE (rule R180) -/
  | decodePressure (b2 b1 b0 : Byte)
  /-- DECODE_TENDENCY_FORECAST (rule R181) -/
  | decodeTendencyForecast (b0 : Byte)
  /-- RESET, block to console (rule R86) -/
  | reset
  /-- ADDR_NIBBLE(n), block to console (rule R87) -/
  | addrNibble (n : Nibble)
  /-- LEN, block to console: `w` is min(width, 15) (rule R88) -/
  | len (w : Nibble)
  /-- CMD_SPECIAL, block to console (rule R89) -/
  | cmdSpecial
  /-- BUSY, console to block (rule R90) -/
  | busy
  /-- READY, console to block (rule R90) -/
  | ready
  /-- OTHER, console to block: any byte but 0x01 and 0x02 in a handshake poll (rule R90) -/
  | hsOther (b : Byte)
  /-- ECHO_ADDR(s, n), console to block (rule R91) -/
  | echoAddr (s : BitVec 2) (n : Nibble)
  /-- ECHO_LEN(w), console to block (rule R91) -/
  | echoLen (w : Nibble)
  /-- DATA, console to block (rule R92) -/
  | data (d : Byte)
  /-- CHKSUM, console to block (rule R92) -/
  | chksum (c : Byte)
  deriving DecidableEq, Repr

end Sys2Proof
end

