-- ==== Sys2Proof/WellFormed.lean ====
section
/-! DEFINITION. Which instructions are well formed: the operand ranges of 30_encoding.md rule R82, the EXPECTED_ECHO
domain of rule R135, and the operand ranges of the wire symbols (rules R88, R90). An ill-formed host operation is no
error of the model: the block answers it REFUSED (rule R83), and its meaning does so. -/

namespace Sys2Proof

/-- A READ or CHECK_DATA length: 1 to MAX_WIDTH (rule R82). -/
def widthInRange (n : Nibble) : Bool := decide (1 ≤ n.toNat ∧ n.toNat ≤ Config.maxWidth)

/-- The (seq, cmd) pairs EXPECTED_ECHO is defined on (rule R135), as ranges of the command byte's value. -/
def echoDomain (seq : Nibble) (cmd : Byte) : Bool :=
  decide ((seq.toNat < 4 ∧ 0x82 ≤ cmd.toNat ∧ cmd.toNat ≤ 0xBE ∧ (cmd.toNat - 0x82) % 4 = 0) ∨
    (seq.toNat = 0 ∧ cmd.toNat = 0x06) ∨
    (seq.toNat = 4 ∧ 0xC6 ≤ cmd.toNat ∧ cmd.toNat ≤ 0xFE ∧ (cmd.toNat - 0xC2) % 4 = 0))

/-- CHECK_DATA bytes beyond the length are zero (rule R82). -/
def unusedBytesZero (n : Nibble) (b2 b1 : Byte) : Bool :=
  decide ((n.toNat < 3 → b2 = 0) ∧ (n.toNat < 2 → b1 = 0))

/-- DECODE_WIND_DIRECTION takes one byte, or the whole 3-byte wind read (rule R82). -/
def windDirectionOperands (n : BitVec 2) (b2 b1 : Byte) : Bool :=
  decide ((n = 1 ∧ b2 = 0 ∧ b1 = 0) ∨ n = 3)

/-- Well-formed instructions. -/
def Instr.wf : Instr → Bool
  | .read n _ => widthInRange n
  | .encodeCommand n _ => decide (1 ≤ n.toNat)
  | .expectedEcho seq cmd => echoDomain seq cmd
  | .checkData n _ b2 b1 _ => widthInRange n && unusedBytesZero n b2 b1
  | .decodeTemperature _ _ => true
  | .decodeHumidity _ => true
  | .decodeWindSpeed _ _ _ => true
  | .decodeWindDirection n b2 b1 _ => windDirectionOperands n b2 b1
  | .decodePrecipitation _ _ _ => true
  | .decodePressure _ _ _ => true
  | .decodeTendencyForecast _ => true
  | .reset => true
  | .addrNibble _ => true
  | .len w => decide (1 ≤ w.toNat)
  | .cmdSpecial => true
  | .busy => true
  | .ready => true
  | .hsOther b => decide (b ≠ Config.respBusy ∧ b ≠ Config.respReady)
  | .echoAddr _ _ => true
  | .echoLen _ => true
  | .data _ => true
  | .chksum _ => true

end Sys2Proof
end

