-- ==== Sys2Proof/Decode.lean ====
section
/-! DEFINITION. Encodings (30_encoding.md): the fields of a request word and of a byte, the decoder of request words and of
wire bytes at their position, the encoder, and the position-free reading of an opcode-table word. -/

namespace Sys2Proof

/-! ### Bit fields -/

/-- `hi(b) = b[7:4]` (rule R10). -/
def hi (b : Byte) : Nibble := b.extractLsb' 4 4
/-- `lo(b) = b[3:0]` (rule R10). -/
def lo (b : Byte) : Nibble := b.extractLsb' 0 4

/-- OP, bits 47:44 (rule R80). -/
def fieldOp (w : RequestWord) : Nibble := w.extractLsb' 44 4
/-- N, bits 43:40. -/
def fieldN (w : RequestWord) : Nibble := w.extractLsb' 40 4
/-- A, bits 39:24. -/
def fieldA (w : RequestWord) : Addr := w.extractLsb' 24 16
/-- P2, bits 23:16. -/
def fieldP2 (w : RequestWord) : Byte := w.extractLsb' 16 8
/-- P1, bits 15:8. -/
def fieldP1 (w : RequestWord) : Byte := w.extractLsb' 8 8
/-- P0, bits 7:0. -/
def fieldP0 (w : RequestWord) : Byte := w.extractLsb' 0 8

/-- The request word of the fields of rule R80, most significant field first. -/
def packRequest (op n : Nibble) (a : Addr) (p2 p1 p0 : Byte) : RequestWord :=
  op ++ n ++ a ++ p2 ++ p1 ++ p0

/-! ### Decoding -/

/-- Why a word is no instruction. -/
inductive DecodeError where
  /-- OP 0x0 or 0xC to 0xF (rules R81, R83, R102) -/
  | reservedOp (op : Nibble)
  /-- a value of N that the operation's encoding does not have (rule R82) -/
  | illegalN (n : Nibble)
  /-- a field that rule R82 marks "0" is nonzero -/
  | nonzeroField
  /-- the byte is no symbol of this position (rules R99, R100) -/
  | notASymbolHere (b : Byte)
  /-- a request word where a byte is due, or a byte where a request word is due -/
  | wrongSide
  deriving DecidableEq, Repr

/-- Decodes a request word by the rows of the opcode table: OP, the bits a row fixes, and its open fields. Where a row
leaves N open, the legality of its value is the operation's own check (rule R83): the answer is REFUSED either way. -/
def decodeRequest (w : RequestWord) : Except DecodeError Instr :=
  let n := fieldN w
  let a := fieldA w
  let p2 := fieldP2 w
  let p1 := fieldP1 w
  let p0 := fieldP0 w
  match (fieldOp w).toNat with
  | 0x1 => if p2 = 0 ∧ p1 = 0 ∧ p0 = 0 then .ok (.read n a) else .error .nonzeroField
  | 0x2 => if p2 = 0 ∧ p1 = 0 ∧ p0 = 0 then .ok (.encodeCommand n a) else .error .nonzeroField
  | 0x3 => if a = 0 ∧ p2 = 0 ∧ p1 = 0 then .ok (.expectedEcho n p0) else .error .nonzeroField
  | 0x4 =>
    if a.extractLsb' 8 8 = 0 then .ok (.checkData n (a.extractLsb' 0 8) p2 p1 p0) else .error .nonzeroField
  | 0x5 =>
    if n ≠ 2 then .error (.illegalN n)
    else if a = 0 ∧ p2 = 0 then .ok (.decodeTemperature p1 p0) else .error .nonzeroField
  | 0x6 =>
    if n ≠ 1 then .error (.illegalN n)
    else if a = 0 ∧ p2 = 0 ∧ p1 = 0 then .ok (.decodeHumidity p0) else .error .nonzeroField
  | 0x7 =>
    if n ≠ 3 then .error (.illegalN n)
    else if a = 0 then .ok (.decodeWindSpeed p2 p1 p0) else .error .nonzeroField
  | 0x8 =>
    if n.extractLsb' 2 2 ≠ 0 then .error (.illegalN n)
    else if a = 0 then .ok (.decodeWindDirection (n.extractLsb' 0 2) p2 p1 p0) else .error .nonzeroField
  | 0x9 =>
    if n ≠ 3 then .error (.illegalN n)
    else if a = 0 then .ok (.decodePrecipitation p2 p1 p0) else .error .nonzeroField
  | 0xA =>
    if n ≠ 3 then .error (.illegalN n)
    else if a = 0 then .ok (.decodePressure p2 p1 p0) else .error .nonzeroField
  | 0xB =>
    if n ≠ 1 then .error (.illegalN n)
    else if a = 0 ∧ p2 = 0 ∧ p1 = 0 then .ok (.decodeTendencyForecast p0) else .error .nonzeroField
  | _ => .error (.reservedOp (fieldOp w))

/-- The places in an exchange at which a word stands. Only the position tells some symbols apart (rule R99). -/
inductive Position where
  /-- a host request, taken in IDLE -/
  | request
  /-- the byte that opens a handshake round (HS_RESET) -/
  | resetSlot
  /-- a handshake response (HS_POLL) -/
  | pollSlot
  /-- command byte `seq` (CMD_SEND) -/
  | commandSlot (seq : Nat)
  /-- the echo of command byte `seq` (CMD_ECHO) -/
  | echoSlot (seq : Nat)
  /-- a data byte (DATA_READ) -/
  | dataSlot
  /-- the checksum byte (CHK_READ) -/
  | checksumSlot
  deriving DecidableEq, Repr

/-- The form `10nnnn10` of ADDR_NIBBLE (rule R87). -/
def isAddrNibble (b : Byte) : Bool := b.extractLsb' 6 2 == 2#2 && b.extractLsb' 0 2 == 2#2
/-- The form `11wwww10` of LEN (rule R88). -/
def isLen (b : Byte) : Bool := b.extractLsb' 6 2 == 3#2 && b.extractLsb' 0 2 == 2#2
/-- Bits 5:2, the operand of ADDR_NIBBLE and LEN. -/
def midNibble (b : Byte) : Nibble := b.extractLsb' 2 4

/-- A handshake response byte (rule R90). -/
def decodePoll (b : Byte) : Instr :=
  if b = 0x01 then .busy else if b = 0x02 then .ready else .hsOther b

/-- A command byte at position `seq` (rule R93, and rule R94 for the one-byte command). -/
def decodeCommandByte (seq : Nat) (b : Byte) : Except DecodeError Instr :=
  if seq < 4 ∧ isAddrNibble b then .ok (.addrNibble (midNibble b))
  else if seq = 0 ∧ b = 0x06 then .ok .cmdSpecial
  else if seq = 4 ∧ isLen b then .ok (.len (midNibble b))
  else .error (.notASymbolHere b)

/-- An echo byte at position `seq` (rule R91). -/
def decodeEchoByte (seq : Nat) (b : Byte) : Except DecodeError Instr :=
  if seq < 4 ∧ b.extractLsb' 6 2 = 0 then .ok (.echoAddr (b.extractLsb' 4 2) (lo b))
  else if seq = 4 ∧ hi b = 3 then .ok (.echoLen (lo b))
  else .error (.notASymbolHere b)

/-- A wire byte at its position. -/
def decodeSymbol : Position → Byte → Except DecodeError Instr
  | .request, _ => .error .wrongSide
  | .resetSlot, b => if b = 0x06 then .ok .reset else .error (.notASymbolHere b)
  | .pollSlot, b => .ok (decodePoll b)
  | .commandSlot seq, b => decodeCommandByte seq b
  | .echoSlot seq, b => decodeEchoByte seq b
  | .dataSlot, b => .ok (.data b)
  | .checksumSlot, b => .ok (.chksum b)

/-- An encoded instruction: a request word on the host side, a byte on the wire side. -/
inductive Code where
  | request (w : RequestWord)
  | symbol (b : Byte)
  deriving DecidableEq, Repr

/-- The decoder: total on every code at every position, rejecting by name. -/
def decode : Position → Code → Except DecodeError Instr
  | .request, .request w => decodeRequest w
  | _, .request _ => .error .wrongSide
  | p, .symbol b => decodeSymbol p b

/-! ### Encoding -/

/-- The byte of ADDR_NIBBLE(n), `{2'b10, n, 2'b10}` (rule R87). -/
def addrNibbleByte (n : Nibble) : Byte := 2#2 ++ n ++ 2#2
/-- The byte of LEN with `w' = w`, `{2'b11, w, 2'b10}` (rule R88). -/
def lenByte (w : Nibble) : Byte := 3#2 ++ w ++ 2#2
/-- The byte of ECHO_ADDR(s, n), `{2'b00, s, n}` (rule R91). -/
def echoAddrByte (s : BitVec 2) (n : Nibble) : Byte := 0#2 ++ s ++ n
/-- The byte of ECHO_LEN(w), `{4'b0011, w}` (rule R91). -/
def echoLenByte (w : Nibble) : Byte := 3#4 ++ w

/-- The encoder, from the patterns of the opcode table. -/
def encode : Instr → Code
  | .read n a => .request (packRequest 0x1 n a 0 0 0)
  | .encodeCommand n a => .request (packRequest 0x2 n a 0 0 0)
  | .expectedEcho seq cmd => .request (packRequest 0x3 seq 0 0 0 cmd)
  | .checkData n c b2 b1 b0 => .request (packRequest 0x4 n (0#8 ++ c) b2 b1 b0)
  | .decodeTemperature b1 b0 => .request (packRequest 0x5 2 0 0 b1 b0)
  | .decodeHumidity b0 => .request (packRequest 0x6 1 0 0 0 b0)
  | .decodeWindSpeed b2 b1 b0 => .request (packRequest 0x7 3 0 b2 b1 b0)
  | .decodeWindDirection n b2 b1 b0 => .request (packRequest 0x8 (0#2 ++ n) 0 b2 b1 b0)
  | .decodePrecipitation b2 b1 b0 => .request (packRequest 0x9 3 0 b2 b1 b0)
  | .decodePressure b2 b1 b0 => .request (packRequest 0xA 3 0 b2 b1 b0)
  | .decodeTendencyForecast b0 => .request (packRequest 0xB 1 0 0 0 b0)
  | .reset => .symbol 0x06
  | .addrNibble n => .symbol (addrNibbleByte n)
  | .len w => .symbol (lenByte w)
  | .cmdSpecial => .symbol 0x06
  | .busy => .symbol 0x01
  | .ready => .symbol 0x02
  | .hsOther b => .symbol b
  | .echoAddr s n => .symbol (echoAddrByte s n)
  | .echoLen w => .symbol (echoLenByte w)
  | .data d => .symbol d
  | .chksum c => .symbol c

/-- The positions at which an instruction may stand (rules R80, R93, R94, R96, R99). -/
def Instr.standsAt : Instr → Position → Bool
  | .read _ _, p => p == .request
  | .encodeCommand _ _, p => p == .request
  | .expectedEcho _ _, p => p == .request
  | .checkData _ _ _ _ _, p => p == .request
  | .decodeTemperature _ _, p => p == .request
  | .decodeHumidity _, p => p == .request
  | .decodeWindSpeed _ _ _, p => p == .request
  | .decodeWindDirection _ _ _ _, p => p == .request
  | .decodePrecipitation _ _ _, p => p == .request
  | .decodePressure _ _ _, p => p == .request
  | .decodeTendencyForecast _, p => p == .request
  | .reset, p => p == .resetSlot
  | .addrNibble _, p => p == .commandSlot 0 || p == .commandSlot 1 || p == .commandSlot 2 || p == .commandSlot 3
  | .len _, p => p == .commandSlot 4
  | .cmdSpecial, p => p == .commandSlot 0
  | .busy, p => p == .pollSlot
  | .ready, p => p == .pollSlot
  | .hsOther _, p => p == .pollSlot
  | .echoAddr _ _, p => p == .echoSlot 0 || p == .echoSlot 1 || p == .echoSlot 2 || p == .echoSlot 3
  | .echoLen _, p => p == .echoSlot 4
  | .data _, p => p == .dataSlot
  | .chksum _, p => p == .checksumSlot

/-! ### A table word by itself -/

/-- The symbol of a byte whose position is not given: the opcode-table row that fixes the most bits of it, and of rows
that fix equally many the first. By itself a byte does not determine its symbol (rule R99: "only position resolves
them"); a step decodes at its position and never uses this. DESIGN CHOICE (notes/assumptions/3.md). -/
def decodeByteAlone (b : Byte) : Instr :=
  if b = 0x06 then .reset
  else if b = 0x01 then .busy
  else if b = 0x02 then .ready
  else if hi b = 3 then .echoLen (lo b)
  else if isAddrNibble b then .addrNibble (midNibble b)
  else if isLen b then .len (midNibble b)
  else if b.extractLsb' 6 2 = 0 then .echoAddr (b.extractLsb' 4 2) (lo b)
  else .hsOther b

/-- The instruction read from an opcode-table word of `nbits` bits: a request word of 48, a wire byte of 8. -/
def decodeTableWord (nbits w : Nat) : Option Instr :=
  if nbits = 8 ∧ w < 2 ^ 8 then some (decodeByteAlone (BitVec.ofNat 8 w))
  else if nbits = 48 ∧ w < 2 ^ 48 then (decodeRequest (BitVec.ofNat 48 w)).toOption
  else none

end Sys2Proof
end

