-- ==== Sys2Proof/Machine/State.lean ====
section
/-! DEFINITION. The state of the machine as plain data (10_state.md rules R20 to R44), the records it delivers (rules R84,
R104, R221), the reasons it can stop, and the state after reset (rule R44). -/

namespace Sys2Proof.Machine

/-! ### The sequencer state -/

/-- `st` (rule R21): the eleven states, and the unused codes 11 to 15, which `st` never takes. -/
inductive SeqState where
  | idle | attStart | hsFlush | hsReset | hsPoll | hsBackoff | cmdSend | cmdEcho | dataRead | chkRead | attFail
  /-- code 11 + k: a model error (rule R21, 93_implementation_defined.md I13) -/
  | unused (k : Fin 5)
  deriving DecidableEq, Repr

/-- The 4-bit codes of rule R21. -/
def SeqState.code : SeqState → Nat
  | .idle => 0 | .attStart => 1 | .hsFlush => 2 | .hsReset => 3 | .hsPoll => 4 | .hsBackoff => 5
  | .cmdSend => 6 | .cmdEcho => 7 | .dataRead => 8 | .chkRead => 9 | .attFail => 10
  | .unused k => 11 + k.val

/-! ### Errors -/

/-- The values of LAST_ERR (rule R31). -/
inductive ErrKind where
  | none | handshakeFailed | echoMismatch | checksumMismatch | channelIo
  deriving DecidableEq, Repr

/-- The codes of rule R31 (decision D4). -/
def ErrKind.code : ErrKind → Nat
  | .none => 0 | .handshakeFailed => 1 | .echoMismatch => 2 | .checksumMismatch => 3 | .channelIo => 4

/-- Where a ChannelIo arose: its phase and position (rules R111, R112, R136, R137, R150, R151). -/
inductive IoPoint where
  | handshakeFlush
  | handshakeWrite
  | command (seq : Nat)
  | echo (seq : Nat)
  | data (k : Nat)
  | checksum
  deriving DecidableEq, Repr

/-- A local error with the information it records (rule R200). `expected` is `none` where no byte matches (rule R134). -/
inductive LocalError where
  | handshakeFailed (rounds : Nat)
  | echoMismatch (seq : Nat) (expected : Option Byte) (got : Byte)
  | checksumMismatch (expected got : Byte)
  | channelIo (at_ : IoPoint)
  deriving DecidableEq, Repr

/-- The kind of a local error. -/
def LocalError.kind : LocalError → ErrKind
  | .handshakeFailed _ => .handshakeFailed
  | .echoMismatch _ _ _ => .echoMismatch
  | .checksumMismatch _ _ => .checksumMismatch
  | .channelIo _ => .channelIo

/-! ### The host side: responses -/

/-- The status of a response (rule R85). -/
inductive Status where
  | ok | readExhausted | refused | decodeRange
  deriving DecidableEq, Repr

/-- The codes of rule R85. -/
def Status.code : Status → Nat
  | .ok => 0 | .readExhausted => 1 | .refused => 2 | .decodeRange => 3

/-- A response record (rule R84). A field that the operation does not set is empty: `none`, and for `bytes` no entry;
`bytes` holds its valid entries, the first first, so `n` is how many there are. -/
structure Resp where
  status : Status
  fails : Option Nat := none
  n : Option Nat := none
  bytes : List Byte := []
  ok : Option Bool := none
  value : Option Int := none
  exact : Option Int := none
  idx1 : Option Nibble := none
  idx2 : Option Nibble := none
  deriving DecidableEq, Repr

/-! ### The channel side -/

/-- What ChFlush and ChWrite return (rule R11). -/
inductive IoResult where
  | ok | ioerr
  deriving DecidableEq, Repr

/-- What ChRead returns (rule R11). -/
inductive RdResult where
  | byte (v : Byte) | timeout | ioerr
  deriving DecidableEq, Repr

/-- What the environment does for one ChRead: these bytes have arrived in the receive buffer, oldest first, by the time
the read returns (none may have), or the read fails. -/
inductive RdEvent where
  | arrived (bs : List Byte) | ioerr
  deriving DecidableEq, Repr

/-- One entry of a wire transcript (rule R104). -/
inductive Token where
  /-- `F`, `F!` -/
  | flush (r : IoResult)
  /-- `>hh`, `>hh!` -/
  | write (b : Byte) (r : IoResult)
  /-- `<hh`, `<T`, `<E` -/
  | read (r : RdResult)
  /-- `W(d)`, in milliseconds -/
  | wait (ms : Nat)
  deriving DecidableEq, Repr

/-- The byte channel (rules R11, R40, R219), with the environment's answers still to come as scripts: an operation takes
the first answer of its script, and with an empty script it has not returned yet, so the block stays in its step. -/
structure Channel where
  /-- the channel was opened and configured (rule R243) -/
  isOpen : Bool
  /-- the receive buffer: bytes received that no ChRead has returned, oldest first (rule R40) -/
  rxBuf : List Byte
  /-- the answers to the next ChFlush operations -/
  flushes : List IoResult
  /-- the answers to the next ChWrite operations -/
  writes : List IoResult
  /-- the events at the next ChRead operations -/
  reads : List RdEvent
  /-- the transcript so far, newest entry first (rule R104) -/
  log : List Token
  deriving DecidableEq, Repr

/-! ### Trace -/

/-- A trace event (rule R221). A register's value stands as the register holds it, `none` if it is unwritten. -/
inductive TraceEvent where
  | readStart (a : Addr) (w : Nibble)
  | attemptStart (att : Option Nat)
  | roundStart (att rnd : Option Nat)
  | tx (b : Byte) (r : IoResult)
  | rx (r : RdResult) (st : SeqState)
  | backoff (rnd ms : Nat)
  | error (e : LocalError) (st : SeqState)
  | attemptFail (att : Option Nat) (kind : Option ErrKind)
  | result (status : Status) (fails : Option Nat)
  deriving DecidableEq, Repr

/-! ### Registers -/

/-- The registers of the record S of rule R20. `none` is *unwritten*: it is the specification's own state of a register
(rules R20, R34, R44), not the want of a reset value. -/
structure Regs where
  /-- REQ_ADDR (rule R23) -/
  reqAddr : Option Addr
  /-- REQ_WIDTH, held in 4 bits (rule R23) -/
  reqWidth : Option Nibble
  /-- CMD[0..4] (rule R24) -/
  cmd : Vector (Option Byte) 5
  /-- CMD_LEN (rule R24) -/
  cmdLen : Option Nat
  /-- ATT (rule R25) -/
  att : Option Nat
  /-- RND (rule R26) -/
  rnd : Option Nat
  /-- POLL (rule R27) -/
  poll : Option Nat
  /-- SEQ (rule R28) -/
  seq : Option Nat
  /-- K (rule R29) -/
  k : Option Nat
  /-- DATA[0..MAX_WIDTH-1] (rule R29) -/
  data : Vector (Option Byte) 3
  /-- CHK (rule R30) -/
  chk : Option Byte
  /-- LAST_ERR (rule R31) -/
  lastErr : Option ErrKind
  deriving DecidableEq, Repr

/-- Every register unwritten (rules R34, R44). -/
def Regs.unwritten : Regs :=
  { reqAddr := none, reqWidth := none, cmd := #v[none, none, none, none, none], cmdLen := none, att := none, rnd := none,
    poll := none, seq := none, k := none, data := #v[none, none, none], chk := none, lastErr := none }

/-- The names of the registers, for the fault of reading an unwritten one. -/
inductive RegName where
  | reqAddr | reqWidth | cmd (i : Nat) | cmdLen | att | rnd | poll | seq | k | data | chk
  deriving DecidableEq, Repr

/-- The machine: the sequencer with its registers (rule R20), its inputs, the channel (rule R219), the host's side, the
trace, the parameters (rule R8), and the model's own counter of free values. -/
structure State where
  /-- `st`, the sequencer state (rule R21) -/
  st : SeqState
  /-- the registers (rule R20) -/
  regs : Regs
  /-- TRACE_EN, an input sampled at every step (rule R33) -/
  traceEn : Bool
  /-- the block reset, an input: asserted, the next step is the reset (rules R240, R241) -/
  resetIn : Bool
  /-- the channel -/
  ch : Channel
  /-- the request words the host will issue, in order, one at a time and only in IDLE (rules R7, R80, R247) -/
  requests : List RequestWord
  /-- the responses delivered to the host, newest first (rule R32); the block never reads it -/
  responses : List Resp
  /-- the trace events emitted, newest first (rule R221); the block never reads it -/
  trace : List TraceEvent
  /-- SPECIAL_ECHO and TIE_POLICY (rule R8); no step writes it -/
  params : Config.Params
  /-- how many free values have been drawn: the model's own field -/
  draws : Nat
  deriving DecidableEq, Repr

/-! ### Stops -/

/-- Why the machine stops. -/
inductive Fault where
  /-- `st` holds code 11 to 15. Raised by `step`. Safe: rule R21 says a model that finds it faults, and no run does. -/
  | unusedSeqCode (code : Nat)
  /-- A rule reads an unwritten register. Raised by the sequencer steps. Safe: the spec says a model that reaches such a
  read faults and picks no value (rule R34; 93_implementation_defined.md I12, treatment "fault"), and no run reaches it. -/
  | unwrittenRead (r : RegName)
  /-- DATA[K] with K at or above MAX_WIDTH does not exist. Raised by DATA_READ. Safe: unreachable (rule R29). -/
  | noSuchDataEntry (k : Nat)
  /-- A READ, or a channel operation, with no open channel: stuck. Raised by READ and every channel operation. Safe:
  rule R219 says there is no step. -/
  | noOpenChannel
  /-- A host operation outside IDLE: stuck. Raised by the host operations. Safe: the host has no move then (rule R80,
  93_implementation_defined.md I16), and `step` issues none. -/
  | requestOutsideIdle
  /-- A block-to-console symbol where the block does not send it. Raised by RESET, ADDR_NIBBLE, LEN and CMD_SPECIAL
  outside their position. Safe: `step` never does so (rules R99, R101). -/
  | symbolOutOfPosition
  deriving DecidableEq, Repr

/-- Why an instruction has no meaning. -/
inductive Refusal where
  /-- Raised by `exec` for an instruction the model does not reach. Safe: nothing is claimed of it. -/
  | notModelled (mnemonic : String)
  deriving DecidableEq, Repr

/-! ### Reset -/

/-- The channel as it stands when the block comes out of reset: open (boot order of rule R244), its buffer empty
(unspecified: notes/assumptions/5.md), no answer scripted yet and nothing transferred. -/
def Channel.atReset : Channel :=
  { isOpen := true, rxBuf := [], flushes := [], writes := [], reads := [], log := [] }

/-- The machine right after reset (rules R44, R240). -/
def State.reset : State :=
  { st := .idle, regs := Regs.unwritten, traceEn := false, resetIn := false, ch := Channel.atReset, requests := [],
    responses := [], trace := [], params := Config.Params.default, draws := 0 }

end Sys2Proof.Machine
end

