-- ==== Sys2Proof/Machine/Operands.lean ====
section
/-! DEFINITION. Operand legality (rules R82, R135) and the pure functions of the block: command encoding (rules R130,
R131), the expected echo (rule R133), the checksum (rule R152), the decoder formulas (rules R174 to R181) and rounding
(rules R171 to R173). -/

namespace Sys2Proof.Machine

/-! ### Legal operands of the host operations (rule R82) -/

/-- READ: N in 1..MAX_WIDTH. -/
def legalRead (n : Nibble) : Bool := decide (1 ≤ n.toNat ∧ n.toNat ≤ Config.maxWidth)
/-- ENCODE_COMMAND: N in 1..15. -/
def legalEncode (n : Nibble) : Bool := n != 0
/-- EXPECTED_ECHO: the bytes the block itself puts at a position (rule R135). -/
def legalEcho (seq : Nibble) (cmd : Byte) : Bool :=
  if seq.toNat < 4 then isAddrNibble cmd || (seq == 0 && cmd == 0x06)
  else seq == 4 && isLen cmd && midNibble cmd != 0
/-- CHECK_DATA: N in 1..3, and the bytes beyond it zero. -/
def legalCheck (n : Nibble) (b2 b1 : Byte) : Bool :=
  match n.toNat with
  | 1 => b2 == 0 && b1 == 0
  | 2 => b2 == 0
  | 3 => true
  | _ => false
/-- DECODE_WIND_DIRECTION: N = 1 with the other bytes zero, or N = 3. -/
def legalWindDirection (n : BitVec 2) (b2 b1 : Byte) : Bool :=
  match n.toNat with
  | 1 => b2 == 0 && b1 == 0
  | 3 => true
  | _ => false

/-! ### Command encoding -/

/-- Nibble i of an address, `a[15-4i : 12-4i]` (rule R97). -/
def addrNibbleAt (a : Addr) (i : Nat) : Nibble := a.extractLsb' (12 - 4 * i) 4

/-- ADDR_NIBBLE by its formula, `0x82 + 4n` (rule R87). -/
def addrCode (n : Nibble) : Byte := BitVec.ofNat 8 (Config.addrCodeBase + 4 * n.toNat)

/-- LEN by its formula, `min(0xC2 + 4w, 0xFE)` (rule R88). -/
def lenCode (w : Nat) : Byte := BitVec.ofNat 8 (min (Config.lenCodeBase + 4 * w) Config.lenCodeCap)

/-- `ENCODE(a, w)` (rules R130, R131): the command bytes; the command's length is the list's. -/
def encodeCmd (a : Addr) (w : Nat) : List Byte :=
  if a = Config.specialAddr then [Config.resetByte]
  else [addrCode (addrNibbleAt a 0), addrCode (addrNibbleAt a 1), addrCode (addrNibbleAt a 2),
    addrCode (addrNibbleAt a 3), lenCode w]

/-- CMD[0..4] holding a command; the entries beyond its length are unwritten (rule R24). -/
def loadCmd (bytes : List Byte) : Vector (Option Byte) 5 :=
  #v[bytes[0]?, bytes[1]?, bytes[2]?, bytes[3]?, bytes[4]?]

/-! ### Expected echo -/

/-- The formula of rule R133 on integers, where nothing wraps; `div` rounds toward zero (rule R10). -/
def echoFormula (seq : Nat) (cmd : Byte) : Int :=
  if seq < 4 then seq * 16 + ((cmd.toNat : Int) - Config.addrCodeBase).tdiv 4
  else Config.echoLenBase + ((cmd.toNat : Int) - Config.lenCodeBase).tdiv 4

/-- A formula's value as a byte, where it is one. -/
def asByte (x : Int) : Option Byte := if 0 ≤ x ∧ x < 256 then some (BitVec.ofNat 8 x.toNat) else none

/-- `EXPECTED_ECHO(seq, cmd)` (rules R133, R134); `none` where no byte matches. -/
def expectedEcho (p : Config.Params) (seq : Nat) (cmd : Byte) : Option Byte :=
  if seq = 0 ∧ cmd = Config.resetByte then p.specialEcho else asByte (echoFormula seq cmd)

/-! ### Checksum -/

/-- `CHECKSUM(d)` (rule R152): the sum of the bytes mod 256. -/
def checksum (d : List Byte) : Byte := BitVec.ofNat 8 ((d.map BitVec.toNat).sum % 256)

/-- The first `n` of the bytes b0, b1, b2 of a request (rule R153). -/
def requestBytes (n : Nat) (b2 b1 b0 : Byte) : List Byte := [b0, b1, b2].take n

/-- DATA[0..w-1], if all of it is written. -/
def dataBytes (d : Vector (Option Byte) 3) : Nat → Option (List Byte)
  | 0 => some []
  | w + 1 =>
    match dataBytes d w, d[w]? with
    | some l, some (some b) => some (l ++ [b])
    | _, _ => none

/-! ### Decoder formulas. Nibbles 10 to 15 are computed as written (rule R184). -/

/-- `hi` as a number. -/
def hiN (b : Byte) : Nat := (hi b).toNat
/-- `lo` as a number. -/
def loN (b : Byte) : Nat := (lo b).toNat

/-- Temperature, in hundredths, offset included (rule R174). -/
def temperatureExact (b1 b0 : Byte) : Int :=
  ((10 * hiN b0 + loN b0 + 1000 * hiN b1 + 100 * loN b1 : Nat) : Int) - 3000
/-- Humidity, in percent (rule R175). -/
def humidityValue (b0 : Byte) : Int := ((10 * hiN b0 + loN b0 : Nat) : Int)
/-- Wind speed, in tenths (rule R176). -/
def windSpeedValue (b1 b0 : Byte) : Int := ((256 * loN b1 + b0.toNat : Nat) : Int)
/-- Wind bearing, in tenths of a degree (rule R177). -/
def bearingValue (idx : Nibble) : Int := ((225 * idx.toNat : Nat) : Int)
/-- Precipitation, in hundredths (rule R179). -/
def precipitationExact (b2 b1 b0 : Byte) : Int :=
  ((10 * hiN b0 + loN b0 + 1000 * hiN b1 + 100 * loN b1 + 100000 * hiN b2 + 10000 * loN b2 : Nat) : Int)
/-- Pressure, in tenths (rule R180). -/
def pressureValue (b2 b1 b0 : Byte) : Int :=
  ((10 * hiN b0 + loN b0 + 1000 * hiN b1 + 100 * loN b1 + 10000 * loN b2 : Nat) : Int)

/-! ### Rounding -/

/-- `round(x, n)` (rule R171), on exact rationals. -/
def roundDec (x : ℚ) (n : Nat) : ℚ :=
  (if x < 0 then -1 else if 0 < x then 1 else 0) * ((⌊|x| * 10 ^ n + 1 / 2⌋ : ℤ) : ℚ) / 10 ^ n

/-- `RT(v)` (rule R172): hundredths rounded to tenths, half away from zero. -/
def rt (v : Int) : Int := v.sign * (((v.natAbs + 5) / 10 : Nat) : Int)

/-- A tie: the hundredths digit is 5 (rule R173). -/
def isTie (v : Int) : Bool := v.natAbs % 10 == 5

/-- The two results TIE_POLICY = EITHER admits at a tie (rule R173). -/
def tieNeighbour (v : Int) (away : Bool) : Int :=
  v.sign * (((v.natAbs / 10 + if away then 1 else 0) : Nat) : Int)

end Sys2Proof.Machine
end

