-- ==== Sys2Proof/Machine/Flags.lean ====
section
/-! DEFINITION. The block's conditions. It stores no flag (rule R37): each is a combinational function, evaluated by the
step that uses it (rules R35, R36). -/

namespace Sys2Proof.Machine

/-- The class of a handshake response byte (rule R35). -/
inductive HsClass where
  | busy | ready | other
  deriving DecidableEq, Repr

/-- `cls(v)` (rule R35). -/
def cls (v : Byte) : HsClass :=
  if v = Config.respBusy then .busy else if v = Config.respReady then .ready else .other

/-- ECHO_OK (rule R36): under no expected byte, none matches (rule R134). -/
def echoOk (p : Config.Params) (seq : Nat) (cmd v : Byte) : Bool := expectedEcho p seq cmd == some v

/-- CHK_OK (rule R36). -/
def chkOk (d : List Byte) (c : Byte) : Bool := checksum d == c

end Sys2Proof.Machine
end

