-- ==== Sys2Proof/Machine/Ops.lean ====
section
/-! DEFINITION. The shared operations: trace, the three channel primitives, reading a register, `respond`, the refusal of
a request, `raise` (the block's analogue of taking a trap, rule R209) with what follows it (rules R155, R211), the block
reset, and rounding under TIE_POLICY. -/

namespace Sys2Proof.Machine

/-- The outcome of a meaning. -/
abbrev Result := Host.Outcome State Fault Refusal

/-! ### Trace -/

/-- `trace(ev)` (rules R13, R33, R221). -/
def State.emit (e : TraceEvent) (s : State) : State :=
  if s.traceEn then { s with trace := e :: s.trace } else s

/-! ### Registers -/

/-- Reads a register: an unwritten one is a model error, and the model faults (rule R34, I12). -/
def need {α : Type} (r : RegName) (o : Option α) (k : α → Result) : Result :=
  match o with
  | some v => k v
  | none => .fault (.unwrittenRead r)

/-- CMD[i]; `none` if the entry is unwritten or there is none. -/
def Regs.cmdAt (r : Regs) (i : Nat) : Option Byte := r.cmd[i]?.join

/-- The state with its registers replaced. -/
def State.setRegs (r : Regs) (s : State) : State := { s with regs := r }

/-- `st <- S` (rule R13). -/
def State.goto (st : SeqState) (s : State) : State := { s with st := st }

/-! ### The channel (rules R11, R68, R219). An operation takes one answer of the environment and is noted in the
transcript. With no answer yet it has not returned, and the block stays where it is. With no open channel there is no
step (rule R219). -/

/-- The channel after a ChFlush that returned `r`: a flush that succeeds empties the receive buffer (rules R40, R69); what
one that fails leaves in it is not stated (notes/assumptions/7.md). -/
def State.flushed (r : IoResult) (rest : List IoResult) (s : State) : State :=
  match r with
  | .ok => { s with ch := { s.ch with flushes := rest, rxBuf := [], log := .flush .ok :: s.ch.log } }
  | .ioerr =>
    { s with
      ch := { s.ch with flushes := rest, rxBuf := Config.receiveBufferAfter s.draws, log := .flush .ioerr :: s.ch.log }
      draws := s.draws + 1 }

/-- `ChFlush()`. -/
def chFlush (s : State) (k : IoResult → State → Result) : Result :=
  if s.ch.isOpen then
    match s.ch.flushes with
    | [] => .next s
    | r :: rest => k r (s.flushed r rest)
  else .fault .noOpenChannel

/-- The channel after a ChWrite of `b` that returned `r`. -/
def State.written (b : Byte) (r : IoResult) (rest : List IoResult) (s : State) : State :=
  { s with ch := { s.ch with writes := rest, log := .write b r :: s.ch.log } }

/-- `ChWrite(b)`. -/
def chWrite (b : Byte) (s : State) (k : IoResult → State → Result) : Result :=
  if s.ch.isOpen then
    match s.ch.writes with
    | [] => .next s
    | r :: rest => k r (s.written b r rest)
  else .fault .noOpenChannel

/-- What a ChRead returns and leaves in the receive buffer: the oldest byte received, a timeout if there is none, or a
failure (rules R11, R40). -/
def readFrom (buf : List Byte) : RdEvent → RdResult × List Byte
  | .ioerr => (.ioerr, buf)
  | .arrived bs =>
    match buf ++ bs with
    | [] => (.timeout, [])
    | v :: more => (.byte v, more)

/-- The channel after a ChRead at event `e`. -/
def State.readAt (e : RdEvent) (rest : List RdEvent) (s : State) : State :=
  { s with
    ch := { s.ch with
      reads := rest, rxBuf := (readFrom s.ch.rxBuf e).2, log := .read (readFrom s.ch.rxBuf e).1 :: s.ch.log } }

/-- `ChRead()`. -/
def chRead (s : State) (k : RdResult → State → Result) : Result :=
  if s.ch.isOpen then
    match s.ch.reads with
    | [] => .next s
    | e :: rest => k (readFrom s.ch.rxBuf e).1 (s.readAt e rest)
  else .fault .noOpenChannel

/-- `wait(t)` (rules R13, R218): no time is kept, so only the transcript notes it. -/
def State.waited (ms : Nat) (s : State) : State :=
  { s with ch := { s.ch with log := .wait ms :: s.ch.log } }

/-- A byte the console sends while the block makes no read: it stays in the receive buffer (rules R40, R248). -/
def State.buffered (v : Byte) (s : State) : State :=
  { s with ch := { s.ch with rxBuf := s.ch.rxBuf ++ [v] } }

/-! ### Responses -/

/-- The delivery of a response record, with its trace event (rules R32, R84, R221). A pure operation reads and writes no
register (rules R132, R153, R170) and leaves `st` in IDLE. -/
def State.deliver (r : Resp) (s : State) : State :=
  { s with responses := r :: s.responses }.emit (.result r.status r.fails)

/-- `respond(r)` at the end of a READ: the response, IDLE, and every register unwritten (rules R13, R34, R154). -/
def State.respond (r : Resp) (s : State) : State :=
  { s.deliver r with st := .idle, regs := Regs.unwritten }

/-- The refusal of a request (rule R83): REFUSED and every other field empty. -/
def refusal : Resp := { status := .refused }

/-- A host operation: taken only in IDLE (rule R80), and refused if its operands are not legal (rule R83). -/
def hostOp (legal : Bool) (s : State) (k : Result) : Result :=
  if s.st = .idle then
    if legal then k else .next (s.deliver refusal)
  else .fault .requestOutsideIdle

/-! ### Taking a local error, and what follows it -/

/-- `raise E(info)` (rule R209): LAST_ERR, the trace event with the state that raised, and ATT_FAIL. Nothing else is
saved. -/
def State.raise (e : LocalError) (s : State) : State :=
  ((s.setRegs { s.regs with lastErr := some e.kind }).emit (.error e s.st)).goto .attFail

/-- ATT_FAIL (rules R155, R211): counts the failed attempt, and starts a fresh one or gives up after the last. -/
def attFail (s : State) : Result :=
  let t := s.emit (.attemptFail s.regs.att s.regs.lastErr)
  need .att s.regs.att fun att =>
    let t := t.setRegs { s.regs with att := some (att + 1) }
    if att + 1 = Config.readAttempts then
      .next (t.respond { status := .readExhausted, fails := some Config.readAttempts })
    else .next (t.goto .attStart)

/-! ### The block reset -/

/-- A block reset taken by the machine (rules R240 to R242): IDLE and every register unwritten. A request in progress is
abandoned with no response, nothing goes out on the channel, and the receive buffer is left unspecified. -/
def State.takeReset (s : State) : State :=
  { s with
    st := .idle
    regs := Regs.unwritten
    resetIn := false
    ch := { s.ch with rxBuf := Config.receiveBufferAfter s.draws }
    draws := s.draws + 1 }

/-! ### Rounding under TIE_POLICY -/

/-- The rounding of hundredths to tenths under the machine's TIE_POLICY (rules R172, R173). Under EITHER a tie draws a
free value that says which of the two admitted results it is. -/
def roundTenths (v : Int) (s : State) : Int × State :=
  match s.params.tiePolicy with
  | .exact => (rt v, s)
  | .either =>
    if isTie v then (tieNeighbour v (Config.tieRoundsAway s.draws), { s with draws := s.draws + 1 })
    else (rt v, s)

end Sys2Proof.Machine
end

