-- ==== Sys2Proof/Machine/Decoder.lean ====
section
/-! DEFINITION. The binary-format decoder (43_decoder.md): the seven DECODE_* host operations. Each is answered in the
step that accepts it, from the request's bytes alone (rules R170, R186). -/

namespace Sys2Proof.Machine

/-- The answer of a decoder that rounds: the value in tenths and the exact hundredths (rules R172, R173). -/
def roundedAnswer (exact : Int) (s : State) : State :=
  (roundTenths exact s).2.deliver
    { status := .ok, value := some (roundTenths exact s).1, exact := some exact }

/-- DECODE_TEMPERATURE (rule R174). -/
def execDecodeTemperature (b1 b0 : Byte) (s : State) : Result :=
  hostOp true s (.next (roundedAnswer (temperatureExact b1 b0) s))

/-- DECODE_HUMIDITY (rule R175). -/
def execDecodeHumidity (b0 : Byte) (s : State) : Result :=
  hostOp true s (.next (s.deliver { status := .ok, value := some (humidityValue b0) }))

/-- DECODE_WIND_SPEED (rule R176). -/
def execDecodeWindSpeed (_b2 b1 b0 : Byte) (s : State) : Result :=
  hostOp true s (.next (s.deliver { status := .ok, value := some (windSpeedValue b1 b0) }))

/-- DECODE_WIND_DIRECTION (rule R177). -/
def execDecodeWindDirection (n : BitVec 2) (b2 b1 b0 : Byte) (s : State) : Result :=
  hostOp (legalWindDirection n b2 b1) s (.next (s.deliver
    { status := .ok, value := some (bearingValue (hi b0)), idx1 := some (hi b0) }))

/-- DECODE_PRECIPITATION (rule R179). -/
def execDecodePrecipitation (b2 b1 b0 : Byte) (s : State) : Result :=
  hostOp true s (.next (roundedAnswer (precipitationExact b2 b1 b0) s))

/-- DECODE_PRESSURE (rule R180). -/
def execDecodePressure (b2 b1 b0 : Byte) (s : State) : Result :=
  hostOp true s (.next (s.deliver { status := .ok, value := some (pressureValue b2 b1 b0) }))

/-- DECODE_TENDENCY_FORECAST (rules R181, R207). -/
def execDecodeTendencyForecast (b0 : Byte) (s : State) : Result :=
  hostOp true s (.next (s.deliver
    (if hiN b0 > 2 ∨ loN b0 > 2 then { status := .decodeRange }
    else { status := .ok, idx1 := some (hi b0), idx2 := some (lo b0) })))

end Sys2Proof.Machine
end

