-- ==== Sys2Proof/Machine/Command.lean ====
section
/-! DEFINITION. Command encoding and echo verification (41_command_echo.md): the host operations ENCODE_COMMAND and
EXPECTED_ECHO, and the steps CMD_SEND and CMD_ECHO. -/

namespace Sys2Proof.Machine

/-! ### Host operations -/

/-- ENCODE_COMMAND (rule R132). -/
def execEncodeCommand (n : Nibble) (a : Addr) (s : State) : Result :=
  hostOp (legalEncode n) s (.next (s.deliver
    { status := .ok, n := some (encodeCmd a n.toNat).length, bytes := encodeCmd a n.toNat }))

/-- EXPECTED_ECHO (rule R135). -/
def execExpectedEcho (seq : Nibble) (cmd : Byte) (s : State) : Result :=
  hostOp (legalEcho seq cmd) s (.next (s.deliver
    (match expectedEcho s.params seq.toNat cmd with
    | none => { status := .ok, n := some 0 }
    | some e => { status := .ok, n := some 1, bytes := [e] })))

/-! ### Sequencer steps -/

/-- CMD_SEND (rule R136). -/
def cmdSend (s : State) : Result :=
  need .seq s.regs.seq fun seq =>
  need (.cmd seq) (s.regs.cmdAt seq) fun b =>
  chWrite b s fun r t =>
    let t := t.emit (.tx b r)
    match r with
    | .ok => .next (t.goto .cmdEcho)
    | .ioerr => .next (t.raise (.channelIo (.command seq)))

/-- The advance after an echo that matches (rule R138). -/
def echoMatched (seq : Nat) (s : State) : Result :=
  need .cmdLen s.regs.cmdLen fun len =>
    if seq + 1 = len then .next ((s.setRegs { s.regs with seq := some (seq + 1), k := some 0 }).goto .dataRead)
    else .next ((s.setRegs { s.regs with seq := some (seq + 1) }).goto .cmdSend)

/-- CMD_ECHO, when the read returned byte `v` (rules R137, R138). -/
def echoByte (v : Byte) (s : State) : Result :=
  let t := s.emit (.rx (.byte v) s.st)
  need .seq s.regs.seq fun seq =>
  need (.cmd seq) (s.regs.cmdAt seq) fun c =>
    if echoOk s.params seq c v then echoMatched seq t
    else .next (t.raise (.echoMismatch seq (expectedEcho s.params seq c) v))

/-- CMD_ECHO, when the read returned no byte (rules R137, R204). -/
def echoNoByte (r : RdResult) (s : State) : Result :=
  let t := s.emit (.rx r s.st)
  need .seq s.regs.seq fun seq => .next (t.raise (.channelIo (.echo seq)))

end Sys2Proof.Machine
end

