-- ==== Sys2Proof/Machine/Handshake.lean ====
section
/-! DEFINITION. The reset / handshake state machine (40_handshake.md): the steps HS_FLUSH, HS_RESET, HS_POLL and
HS_BACKOFF. -/

namespace Sys2Proof.Machine

/-- HS_FLUSH (rule R111); a flush that fails ends the attempt (rule R119). -/
def hsFlush (s : State) : Result :=
  chFlush s fun r t =>
    let t := t.emit (.roundStart s.regs.att s.regs.rnd)
    match r with
    | .ok => .next (t.goto .hsReset)
    | .ioerr => .next (t.raise (.channelIo .handshakeFlush))

/-- HS_RESET (rule R112); a write that fails ends the attempt (rule R119). -/
def hsReset (s : State) : Result :=
  chWrite Config.resetByte s fun r t =>
    let t := t.emit (.tx Config.resetByte r)
    match r with
    | .ok => .next ((t.setRegs { s.regs with poll := some 0 }).goto .hsPoll)
    | .ioerr => .next (t.raise (.channelIo .handshakeWrite))

/-- HS_POLL counts the read it made, whatever it returned (rule R113). -/
def pollCounted (r : RdResult) (s : State) (k : Nat → State → Result) : Result :=
  need .poll s.regs.poll fun p =>
    k (p + 1) ((s.setRegs { s.regs with poll := some (p + 1) }).emit (.rx r s.st))

/-- HS_POLL, when the read returned byte `v` (rules R113 to R117). -/
def pollByte (v : Byte) (s : State) : Result :=
  pollCounted (.byte v) s fun poll t =>
    match cls v with
    | .ready => .next ((t.setRegs { t.regs with seq := some 0 }).goto .cmdSend)
    | .busy => if poll < Config.hsPolls then .next (t.goto .hsPoll) else .next (t.goto .hsBackoff)
    | .other => .next (t.goto .hsBackoff)

/-- HS_POLL, when the read returned no byte: the round is abandoned (rule R116). -/
def pollNoByte (r : RdResult) (s : State) : Result :=
  pollCounted r s fun _ t => .next (t.goto .hsBackoff)

/-- HS_BACKOFF (rule R118). After the 100th round RND stays 100 in ATT_FAIL, and in ATT_START until it is set to 0: DEDUCED
(notes/assumptions/30.md), since rules R118 and R209 write nothing to it there, where rule R26 has the value 100 only in
the step that raises. -/
def hsBackoff (s : State) : Result :=
  need .rnd s.regs.rnd fun rnd =>
    let ms := Config.backoffUnit * (rnd + 1)
    let t := (s.waited ms).emit (.backoff rnd ms)
    let t := t.setRegs { s.regs with rnd := some (rnd + 1) }
    if rnd + 1 = Config.hsRounds then .next (t.raise (.handshakeFailed Config.hsRounds))
    else .next (t.goto .hsFlush)

end Sys2Proof.Machine
end

