-- ==== Sys2Proof/Machine/Read.lean ====
section
/-! DEFINITION. Data read, checksum validation and bounded retry (42_read_retry.md): the host operations READ and
CHECK_DATA, and the steps ATT_START, DATA_READ and CHK_READ. ATT_FAIL stands beside `raise` in Ops.lean. -/

namespace Sys2Proof.Machine

/-! ### Host operations -/

/-- READ (rule R156): the acceptance. With no open channel it is stuck (rule R219). -/
def execRead (n : Nibble) (a : Addr) (s : State) : Result :=
  hostOp (legalRead n) s
    (if s.ch.isOpen then
      .next (((s.setRegs { s.regs with reqAddr := some a, reqWidth := some n, att := some 0 }).emit
        (.readStart a n)).goto .attStart)
    else .fault .noOpenChannel)

/-- CHECK_DATA (rule R153). -/
def execCheckData (n : Nibble) (c b2 b1 b0 : Byte) (s : State) : Result :=
  hostOp (legalCheck n b2 b1) s (.next (s.deliver
    { status := .ok, ok := some (chkOk (requestBytes n.toNat b2 b1 b0) c) }))

/-! ### Sequencer steps -/

/-- The registers at the start of an attempt: the command loaded, RND 0, and the attempt's others unwritten. -/
def Regs.startAttempt (bytes : List Byte) (r : Regs) : Regs :=
  { r with
    cmd := loadCmd bytes
    cmdLen := some bytes.length
    rnd := some 0
    poll := none
    seq := none
    k := none
    data := #v[none, none, none]
    chk := none
    lastErr := none }

/-- ATT_START (rule R157). -/
def attStart (s : State) : Result :=
  need .reqAddr s.regs.reqAddr fun a =>
  need .reqWidth s.regs.reqWidth fun w =>
    let bytes := encodeCmd a w.toNat
    .next (((s.setRegs (s.regs.startAttempt bytes)).emit (.attemptStart s.regs.att)).goto .hsFlush)

/-- DATA_READ, when the read returned byte `v` (rule R150). -/
def dataByte (v : Byte) (s : State) : Result :=
  let t := s.emit (.rx (.byte v) s.st)
  need .k s.regs.k fun k =>
  need .reqWidth s.regs.reqWidth fun w =>
    if h : k < 3 then
      .next ((t.setRegs { s.regs with data := s.regs.data.set k (some v), k := some (k + 1) }).goto
        (if k + 1 = w.toNat then .chkRead else .dataRead))
    else .fault (.noSuchDataEntry k)

/-- DATA_READ, when the read returned no byte (rules R150, R204). -/
def dataNoByte (r : RdResult) (s : State) : Result :=
  let t := s.emit (.rx r s.st)
  need .k s.regs.k fun k => .next (t.raise (.channelIo (.data k)))

/-- CHK_READ, when the read returned byte `c`: success (rules R151, R154) or ChecksumMismatch. -/
def chkByte (c : Byte) (s : State) : Result :=
  let t := s.emit (.rx (.byte c) s.st)
  need .reqWidth s.regs.reqWidth fun w =>
  need .data (dataBytes s.regs.data w.toNat) fun d =>
    let t := t.setRegs { s.regs with chk := some c }
    if chkOk d c then
      need .att s.regs.att fun att =>
        .next (t.respond { status := .ok, fails := some att, n := some w.toNat, bytes := d })
    else .next (t.raise (.checksumMismatch (checksum d) c))

/-- CHK_READ, when the read returned no byte (rules R151, R204). -/
def chkNoByte (r : RdResult) (s : State) : Result :=
  .next ((s.emit (.rx r s.st)).raise (.channelIo .checksum))

end Sys2Proof.Machine
end

