-- ==== Sys2Proof/Machine/Symbols.lean ====
section
/-! DEFINITION. The wire symbols (30_encoding.md sections 3 and 4). A symbol the block sends means the step that sends it;
a symbol it accepts means what the block does with that byte in its present state (rule R214). -/

namespace Sys2Proof.Machine

/-! ### Block to console -/

/-- Sends a command byte: CMD_SEND, where CMD[SEQ] is that byte and SEQ is a position of the symbol (rules R93, R136).
Nowhere else does the block send it (rules R99, R101). -/
def sendCommandSymbol (position : Nat → Bool) (b : Byte) (s : State) : Result :=
  if s.st = .cmdSend then
    need .seq s.regs.seq fun seq =>
    need (.cmd seq) (s.regs.cmdAt seq) fun c =>
      if position seq ∧ c = b then cmdSend s else .fault .symbolOutOfPosition
  else .fault .symbolOutOfPosition

/-- RESET (rules R86, R112): HS_RESET. -/
def execReset (s : State) : Result :=
  if s.st = .hsReset then hsReset s else .fault .symbolOutOfPosition

/-- ADDR_NIBBLE(n) (rules R87, R93): command byte 0 to 3. -/
def execAddrNibble (n : Nibble) (s : State) : Result :=
  sendCommandSymbol (fun seq => seq < 4) (addrNibbleByte n) s

/-- LEN (rules R88, R93): command byte 4. -/
def execLen (w : Nibble) (s : State) : Result :=
  sendCommandSymbol (fun seq => seq == 4) (lenByte w) s

/-- CMD_SPECIAL (rules R89, R94): the whole command for address 0x0006. -/
def execCmdSpecial (s : State) : Result :=
  sendCommandSymbol (fun seq => seq == 0) Config.resetByte s

/-! ### Console to block -/

/-- A byte from the console, by the sequencer state (rule R214): in a reading state it is the byte the step's ChRead
returned; in any other it stays in the receive buffer (rules R40, R248). -/
def receiveByte (v : Byte) (s : State) : Result :=
  match s.st with
  | .hsPoll => pollByte v s
  | .cmdEcho => echoByte v s
  | .dataRead => dataByte v s
  | .chkRead => chkByte v s
  | .idle => .next (s.buffered v)
  | .attStart => .next (s.buffered v)
  | .hsFlush => .next (s.buffered v)
  | .hsReset => .next (s.buffered v)
  | .hsBackoff => .next (s.buffered v)
  | .cmdSend => .next (s.buffered v)
  | .attFail => .next (s.buffered v)
  | .unused k => .fault (.unusedSeqCode (11 + k.val))

/-- BUSY (rules R90, R114). -/
def execBusy (s : State) : Result := receiveByte Config.respBusy s
/-- READY (rules R90, R115). -/
def execReady (s : State) : Result := receiveByte Config.respReady s
/-- OTHER (rules R90, R116). -/
def execHsOther (b : Byte) (s : State) : Result := receiveByte b s
/-- ECHO_ADDR(q, n) (rules R91, R137). -/
def execEchoAddr (q : BitVec 2) (n : Nibble) (s : State) : Result := receiveByte (echoAddrByte q n) s
/-- ECHO_LEN(w) (rules R91, R137). -/
def execEchoLen (w : Nibble) (s : State) : Result := receiveByte (echoLenByte w) s
/-- DATA (rules R92, R150). -/
def execData (d : Byte) (s : State) : Result := receiveByte d s
/-- CHKSUM (rules R92, R151). -/
def execChksum (c : Byte) (s : State) : Result := receiveByte c s

end Sys2Proof.Machine
end

