-- ==== Sys2Proof/Machine/Tables.lean ====
section
/-! DEFINITION. The constant tables: the compass, tendency and forecast labels (rules R178, R182), the labels of a
response, and MEMORY_MAP with the alias READ <name> (rules R54, R105). -/

namespace Sys2Proof.Machine

/-- The compass labels (rule R178). -/
inductive Compass where
  | n | nne | ne | ene | e | ese | se | sse | s | ssw | sw | wsw | w | wnw | nw | nnw
  deriving DecidableEq, Repr

/-- COMPASS[0..15] (rule R178). -/
def compassTable : Vector Compass 16 :=
  #v[.n, .nne, .ne, .ene, .e, .ese, .se, .sse, .s, .ssw, .sw, .wsw, .w, .wnw, .nw, .nnw]

/-- The label of a compass index. -/
def compassAt (i : Nibble) : Compass := compassTable[i.toNat]'i.isLt

/-- The pressure tendency labels (rule R182). -/
inductive Tendency where
  | steady | rising | falling
  deriving DecidableEq, Repr

/-- TENDENCY[0..2]; there is no label beyond them (rule R207). -/
def tendencyAt (i : Nibble) : Option Tendency :=
  match i.toNat with
  | 0 => some .steady | 1 => some .rising | 2 => some .falling | _ => none

/-- The forecast labels (rule R182). -/
inductive Forecast where
  | rainy | cloudy | sunny
  deriving DecidableEq, Repr

/-- FORECAST[0..2]. -/
def forecastAt (i : Nibble) : Option Forecast :=
  match i.toNat with
  | 0 => some .rainy | 1 => some .cloudy | 2 => some .sunny | _ => none

/-- The compass label of a DECODE_WIND_DIRECTION response (rule R177). -/
def Resp.compassLabel (r : Resp) : Option Compass := r.idx1.map compassAt
/-- The tendency label of a DECODE_TENDENCY_FORECAST response (rule R181). -/
def Resp.tendencyLabel (r : Resp) : Option Tendency := r.idx1.bind tendencyAt
/-- The forecast label of a DECODE_TENDENCY_FORECAST response (rule R181). -/
def Resp.forecastLabel (r : Resp) : Option Forecast := r.idx2.bind forecastAt

open Config (Region) in
/-- The width of a region, from its decoder family (rule R54); the wind direction's is open. -/
def regionWidth : Region → Nibble
  | .indoorTemperature => 2 | .outdoorTemperature => 2 | .dewpoint => 2 | .windChill => 2
  | .indoorHumidity => 1 | .outdoorHumidity => 1
  | .windSpeed => 3
  | .windDirection => if Config.windDirectionIsSpeedRead then 3 else 1
  | .rain1h => 3 | .rain24h => 3 | .rainTotal => 3
  | .pressure => 3
  | .pressureTendency => 1

open Config (Region) in
/-- The address of a region: OPEN (decision D18). The wind direction's is the wind speed's where it is the wind-speed
read itself. -/
def regionAddr (r : Region) : Addr :=
  if r = .windDirection ∧ Config.windDirectionIsSpeedRead then Config.memoryMapAddr .windSpeed
  else Config.memoryMapAddr r

/-- `READ <name>` means `READ MEMORY_MAP(name).addr, MEMORY_MAP(name).width` (rule R105). -/
def readNamed (r : Config.Region) : Instr := .read (regionWidth r) (regionAddr r)

end Sys2Proof.Machine
end

