-- ==== Sys2Proof/Machine/Dispatch.lean ====
section
/-! DEFINITION. The meaning of each instruction: one arm per constructor. -/

namespace Sys2Proof.Machine

def exec (i : Instr) (s : State) : Host.Outcome State Fault Refusal :=
  match i with
  -- host operations
  | .read n a => Sys2Proof.Machine.execRead n a s
  | .encodeCommand n a => Sys2Proof.Machine.execEncodeCommand n a s
  | .expectedEcho seq cmd => Sys2Proof.Machine.execExpectedEcho seq cmd s
  | .checkData n c b2 b1 b0 => Sys2Proof.Machine.execCheckData n c b2 b1 b0 s
  | .decodeTemperature b1 b0 => Sys2Proof.Machine.execDecodeTemperature b1 b0 s
  | .decodeHumidity b0 => Sys2Proof.Machine.execDecodeHumidity b0 s
  | .decodeWindSpeed b2 b1 b0 => Sys2Proof.Machine.execDecodeWindSpeed b2 b1 b0 s
  | .decodeWindDirection n b2 b1 b0 => Sys2Proof.Machine.execDecodeWindDirection n b2 b1 b0 s
  | .decodePrecipitation b2 b1 b0 => Sys2Proof.Machine.execDecodePrecipitation b2 b1 b0 s
  | .decodePressure b2 b1 b0 => Sys2Proof.Machine.execDecodePressure b2 b1 b0 s
  | .decodeTendencyForecast b0 => Sys2Proof.Machine.execDecodeTendencyForecast b0 s
  -- wire symbols, block to console
  | .reset => Sys2Proof.Machine.execReset s
  | .addrNibble n => Sys2Proof.Machine.execAddrNibble n s
  | .len w => Sys2Proof.Machine.execLen w s
  | .cmdSpecial => Sys2Proof.Machine.execCmdSpecial s
  -- wire symbols, console to block
  | .busy => Sys2Proof.Machine.execBusy s
  | .ready => Sys2Proof.Machine.execReady s
  | .hsOther b => Sys2Proof.Machine.execHsOther b s
  | .echoAddr q n => Sys2Proof.Machine.execEchoAddr q n s
  | .echoLen w => Sys2Proof.Machine.execEchoLen w s
  | .data d => Sys2Proof.Machine.execData d s
  | .chksum c => Sys2Proof.Machine.execChksum c s

end Sys2Proof.Machine
end

