-- ==== Sys2Proof/Machine/Sequencer.lean ====
section
/-! DEFINITION. What one step does around `exec`: taking a request in IDLE, the byte a CMD_SEND is to send, and the byte a
ChRead returned, each decoded at its position and run. Also where a word is placed so that the next step runs it. -/

namespace Sys2Proof.Machine

/-- IDLE: waits for a host request, and runs it; a word that is no instruction is refused (rules R80, R83). -/
def idleStep (s : State) : Result :=
  match s.requests with
  | [] => .next s
  | w :: rest =>
    let t := { s with requests := rest }
    match decode .request (.request w) with
    | .ok i => exec i t
    | .error _ => .next (t.deliver refusal)

/-- HS_RESET: the symbol sent there is RESET (rules R86, R112). -/
def resetStep (s : State) : Result :=
  match decode .resetSlot (.symbol Config.resetByte) with
  | .ok i => exec i s
  | .error _ => hsReset s

/-- The command byte due in CMD_SEND, with its position. -/
def commandDue (s : State) : Option (Nat × Byte) :=
  s.regs.seq.bind fun seq => (s.regs.cmdAt seq).map fun b => (seq, b)

/-- CMD_SEND: CMD[SEQ] is sent whatever it is (rule R136); ENCODE makes only bytes that are symbols (rule R101). -/
def commandStep (s : State) : Result :=
  match commandDue s with
  | some (seq, b) =>
    match decode (.commandSlot seq) (.symbol b) with
    | .ok i => exec i s
    | .error _ => cmdSend s
  | none => cmdSend s

/-- HS_POLL (rules R113, R213). -/
def pollStep (s : State) : Result :=
  chRead s fun r t =>
    match r with
    | .byte v =>
      match decode .pollSlot (.symbol v) with
      | .ok i => exec i t
      | .error _ => receiveByte v t
    | .timeout => pollNoByte .timeout t
    | .ioerr => pollNoByte .ioerr t

/-- CMD_ECHO (rules R137, R213). A byte that is no echo symbol is compared all the same (rule R100). -/
def echoStep (s : State) : Result :=
  chRead s fun r t =>
    match r with
    | .byte v =>
      match t.regs.seq with
      | some seq =>
        match decode (.echoSlot seq) (.symbol v) with
        | .ok i => exec i t
        | .error _ => receiveByte v t
      | none => receiveByte v t
    | .timeout => echoNoByte .timeout t
    | .ioerr => echoNoByte .ioerr t

/-- DATA_READ (rules R150, R213). -/
def dataStep (s : State) : Result :=
  chRead s fun r t =>
    match r with
    | .byte v =>
      match decode .dataSlot (.symbol v) with
      | .ok i => exec i t
      | .error _ => receiveByte v t
    | .timeout => dataNoByte .timeout t
    | .ioerr => dataNoByte .ioerr t

/-- CHK_READ (rules R151, R213). -/
def checksumStep (s : State) : Result :=
  chRead s fun r t =>
    match r with
    | .byte v =>
      match decode .checksumSlot (.symbol v) with
      | .ok i => exec i t
      | .error _ => receiveByte v t
    | .timeout => chkNoByte .timeout t
    | .ioerr => chkNoByte .ioerr t

/-! ### Placing a word where the next step runs it -/

/-- The host issues `w` as its next request, to a block in IDLE. -/
def State.withRequest (s : State) (w : RequestWord) : State :=
  { s with st := .idle, resetIn := false, requests := w :: s.requests }

/-- The console's next byte is `v`, with nothing before it in the receive buffer. -/
def State.withReadByte (s : State) (v : Byte) : State :=
  { s with resetIn := false, ch := { s.ch with isOpen := true, rxBuf := [], reads := .arrived [v] :: s.ch.reads } }

/-- The next ChWrite succeeds. -/
def State.withWriteOk (s : State) : State :=
  { s with resetIn := false, ch := { s.ch with isOpen := true, writes := .ok :: s.ch.writes } }

/-- Command byte `seq` is `b` and is the one being sent or checked. -/
def State.withCommandByte (s : State) (seq : Nat) (b : Byte) : State :=
  { s with regs := { s.regs with seq := some seq, cmdLen := some 5, cmd := s.regs.cmd.setIfInBounds seq (some b) } }

/-- The sequencer at the place where symbol `i` stands, about to send or to read it: the position `decodeByteAlone`
reads a byte at. -/
def State.withSymbol (s : State) : Instr → State
  | .reset => { s.withWriteOk with st := .hsReset }
  | .addrNibble n => { s.withWriteOk.withCommandByte 0 (addrNibbleByte n) with st := .cmdSend }
  | .len w => { s.withWriteOk.withCommandByte 4 (lenByte w) with st := .cmdSend }
  | .cmdSpecial => { s.withWriteOk.withCommandByte 0 Config.resetByte with st := .cmdSend }
  | .busy => atPoll s Config.respBusy
  | .ready => atPoll s Config.respReady
  | .hsOther b => atPoll s b
  | .echoAddr q n =>
    { (s.withReadByte (echoAddrByte q n)).withCommandByte q.toNat (addrNibbleByte n) with st := .cmdEcho }
  | .echoLen w => { (s.withReadByte (echoLenByte w)).withCommandByte 4 (lenByte w) with st := .cmdEcho }
  | .data d => atData s d
  | .chksum c => atChecksum s c
  | .read _ _ => s
  | .encodeCommand _ _ => s
  | .expectedEcho _ _ => s
  | .checkData _ _ _ _ _ => s
  | .decodeTemperature _ _ => s
  | .decodeHumidity _ => s
  | .decodeWindSpeed _ _ _ => s
  | .decodeWindDirection _ _ _ _ => s
  | .decodePrecipitation _ _ _ => s
  | .decodePressure _ _ _ => s
  | .decodeTendencyForecast _ => s
where
  /-- In HS_POLL, the first poll of a round. -/
  atPoll (s : State) (v : Byte) : State :=
    let t := s.withReadByte v
    { t with st := .hsPoll, regs := { t.regs with poll := some 0 } }
  /-- In DATA_READ, the first data byte of a one-byte READ. -/
  atData (s : State) (v : Byte) : State :=
    let t := s.withReadByte v
    { t with st := .dataRead, regs := { t.regs with k := some 0, reqWidth := some 1 } }
  /-- In CHK_READ, after the data byte of a one-byte READ that has this checksum. -/
  atChecksum (s : State) (v : Byte) : State :=
    let t := s.withReadByte v
    { t with
      st := .chkRead
      regs := { t.regs with att := some 0, k := some 1, reqWidth := some 1, data := #v[some v, none, none] } }

/-- The table word `w` of `nbits` bits placed where the next step runs it: a 48-bit word as the host's next request, a
byte at the place of the symbol it is read as (notes/assumptions/3.md). -/
def State.placeWord (s : State) (nbits w : Nat) : State :=
  if nbits = 8 then s.withSymbol (decodeByteAlone (BitVec.ofNat 8 w))
  else s.withRequest (BitVec.ofNat 48 w)

end Sys2Proof.Machine
end

