-- ==== Sys2Proof/Machine/Step.lean ====
section
/-! DEFINITION. One step: a block reset if it is asserted, or else the rule of the current sequencer state (rule R21). -/

namespace Sys2Proof.Machine

/-- One step of the machine. -/
def step (s : State) : Host.Outcome State Fault Refusal :=
  if s.resetIn then .next s.takeReset
  else
    match s.st with
    | .idle => idleStep s
    | .attStart => attStart s
    | .hsFlush => hsFlush s
    | .hsReset => resetStep s
    | .hsPoll => pollStep s
    | .hsBackoff => hsBackoff s
    | .cmdSend => commandStep s
    | .cmdEcho => echoStep s
    | .dataRead => dataStep s
    | .chkRead => checksumStep s
    | .attFail => attFail s
    | .unused k => .fault (.unusedSeqCode (11 + k.val))

/-- `s` with an opcode-table word placed so that the next step runs it. -/
def State.withFetchWord (s : State) (nbits w : Nat) : State := s.placeWord nbits w

end Sys2Proof.Machine
end

