-- ==== Sys2Proof/Safety.lean ====
section
/-! DEFINITION. The words in which claims about the machine are stated: which request words rule R82 and rule R135 make
legal, the invariant of a run, the budgets of a READ, and what the trace input may not change. -/

namespace Sys2Proof

/-- The operations a host requests (rule R81). -/
def Instr.isHostOp (i : Instr) : Bool := i.standsAt .request

end Sys2Proof

namespace Sys2Proof.Machine

/-! ### Legal request words, read off the word's number and not off the decoder -/

/-- Bits `len` from `lo` of a request word, as a number. -/
def slice (w : RequestWord) (lo len : Nat) : Nat := w.toNat / 2 ^ lo % 2 ^ len

/-- Rule R82's table, with the domain rule R135 adds: the request words that are not refused. -/
def LegalRequest (w : RequestWord) : Prop :=
  let op := slice w 44 4
  let n := slice w 40 4
  let a := slice w 24 16
  let p2 := slice w 16 8
  let p1 := slice w 8 8
  let p0 := slice w 0 8
  (op = 0x1 ∧ 1 ≤ n ∧ n ≤ 3 ∧ p2 = 0 ∧ p1 = 0 ∧ p0 = 0) ∨
  (op = 0x2 ∧ 1 ≤ n ∧ n ≤ 15 ∧ p2 = 0 ∧ p1 = 0 ∧ p0 = 0) ∨
  (op = 0x3 ∧ a = 0 ∧ p2 = 0 ∧ p1 = 0 ∧
    ((n < 4 ∧ ∃ m, m < 16 ∧ p0 = 0x82 + 4 * m) ∨ (n = 0 ∧ p0 = 0x06) ∨
      (n = 4 ∧ ∃ m, 1 ≤ m ∧ m ≤ 15 ∧ p0 = 0xC2 + 4 * m))) ∨
  (op = 0x4 ∧ 1 ≤ n ∧ n ≤ 3 ∧ a < 256 ∧ (n < 3 → p2 = 0) ∧ (n < 2 → p1 = 0)) ∨
  (op = 0x5 ∧ n = 2 ∧ a = 0 ∧ p2 = 0) ∨
  (op = 0x6 ∧ n = 1 ∧ a = 0 ∧ p2 = 0 ∧ p1 = 0) ∨
  (op = 0x7 ∧ n = 3 ∧ a = 0) ∨
  (op = 0x8 ∧ a = 0 ∧ ((n = 1 ∧ p2 = 0 ∧ p1 = 0) ∨ n = 3)) ∨
  (op = 0x9 ∧ n = 3 ∧ a = 0) ∨
  (op = 0xA ∧ n = 3 ∧ a = 0) ∨
  (op = 0xB ∧ n = 1 ∧ a = 0 ∧ p2 = 0 ∧ p1 = 0)

/-! ### The invariant of a run (rules R20 to R34) -/

/-- A round has polled: POLL counts 1 to 10 reads (rules R27, R113). -/
def Regs.polled (r : Regs) : Prop := ∃ p, r.poll = some p ∧ 1 ≤ p ∧ p ≤ 10

/-- A round begins: POLL is unwritten in the first (rule R157), and holds the count of the round before in a later one. -/
def Regs.roundStart (r : Regs) (rnd : Nat) : Prop := (rnd = 0 ∧ r.poll = none) ∨ (0 < rnd ∧ r.polled)

/-- The data of this attempt has not begun: K, DATA and CHK are unwritten (rules R138, R157). -/
def Regs.noData (r : Regs) : Prop := r.k = none ∧ r.data = #v[none, none, none] ∧ r.chk = none

/-- K is `k`, and DATA is written exactly below it (rules R29, R150). -/
def Regs.dataUpTo (r : Regs) (k : Nat) : Prop := r.k = some k ∧ ∀ i (h : i < 3), (r.data[i]).isSome = decide (i < k)

/-- The registers that a failed attempt leaves: an error kind, and each register that the attempt wrote in its range. SEQ
may be the command's length (notes/assumptions/18.md), and RND 100 (notes/assumptions/30.md). -/
structure Regs.Failed (r : Regs) (len w rnd : Nat) : Prop where
  rnd : rnd ≤ 100
  lastErr : ∃ e, r.lastErr = some e ∧ e ≠ .none
  poll : ∀ p, r.poll = some p → p ≤ 10
  seq : ∀ q, r.seq = some q → q ≤ len
  data : r.noData ∨ ∃ k, k ≤ w ∧ r.dataUpTo k ∧ (r.chk.isSome = true → k = w)

/-- What holds of the registers of an attempt in each sequencer state, with the command's length `len`, the width `w` and
the round index `rnd`. In ATT_START they are those of the attempt that failed. -/
def PhaseOk (r : Regs) (len w rnd : Nat) : SeqState → Prop
  | .hsFlush => rnd < 100 ∧ r.lastErr = none ∧ r.roundStart rnd ∧ r.seq = none ∧ r.noData
  | .hsReset => rnd < 100 ∧ r.lastErr = none ∧ r.roundStart rnd ∧ r.seq = none ∧ r.noData
  | .hsPoll => rnd < 100 ∧ r.lastErr = none ∧ (∃ p, r.poll = some p ∧ p < 10) ∧ r.seq = none ∧ r.noData
  | .hsBackoff => rnd < 100 ∧ r.lastErr = none ∧ r.polled ∧ r.seq = none ∧ r.noData
  | .cmdSend => rnd < 100 ∧ r.lastErr = none ∧ r.polled ∧ (∃ q, r.seq = some q ∧ q < len) ∧ r.noData
  | .cmdEcho => rnd < 100 ∧ r.lastErr = none ∧ r.polled ∧ (∃ q, r.seq = some q ∧ q < len) ∧ r.noData
  | .dataRead => rnd < 100 ∧ r.lastErr = none ∧ r.polled ∧ r.seq = some len ∧ (∃ k, k < w ∧ r.dataUpTo k) ∧ r.chk = none
  | .chkRead => rnd < 100 ∧ r.lastErr = none ∧ r.polled ∧ r.seq = some len ∧ r.dataUpTo w ∧ r.chk = none
  | .attFail => r.Failed len w rnd
  | .attStart => r.Failed len w rnd
  | .idle => False
  | .unused _ => False

/-- The registers of a READ just accepted: its request, and ATT = 0 (rule R156). -/
def Regs.requested (a : Addr) (w : Nibble) : Regs :=
  { Regs.unwritten with reqAddr := some a, reqWidth := some w, att := some 0 }

/-- A READ in progress: its request and the failed attempts so far, and, once the first attempt has begun, the command and
the registers of the attempt, which ATT_START still holds from the attempt that failed. -/
structure ReadInProgress (s : State) (a : Addr) (w : Nibble) (att : Nat) : Prop where
  isOpen : s.ch.isOpen = true
  reqAddr : s.regs.reqAddr = some a
  reqWidth : s.regs.reqWidth = some w
  width : 1 ≤ w.toNat ∧ w.toNat ≤ 3
  failed : s.regs.att = some att
  budget : att < 50
  phase : (s.st = .attStart ∧ s.regs = Regs.requested a w) ∨
    ((s.st = .attStart → 0 < att) ∧ s.regs.cmd = loadCmd (encodeCmd a w.toNat) ∧
      s.regs.cmdLen = some (encodeCmd a w.toNat).length ∧ ∃ rnd, s.regs.rnd = some rnd ∧
        PhaseOk s.regs (encodeCmd a w.toNat).length w.toNat rnd s.st)

/-- The invariant: IDLE with every register unwritten, or a READ in progress with its registers written and in range. -/
def State.Inv (s : State) : Prop :=
  (s.st = .idle ∧ s.regs = Regs.unwritten) ∨ ∃ a w att, ReadInProgress s a w att

/-! ### Budgets of a READ (rules R121, R159, R253) -/

/-- Whether a transcript entry is a channel operation: a backoff wait is none. -/
def Token.isChannelOp : Token → Bool
  | .wait _ => false
  | .flush _ => true
  | .write _ _ => true
  | .read _ => true

/-- How many channel operations a transcript holds. -/
def channelOps (log : List Token) : Nat := log.countP Token.isChannelOp

/-- A register's number, for a budget: 0 if it is unwritten. -/
def num (o : Option Nat) : Nat := o.getD 0

/-- The width of the READ in progress. -/
def State.width (s : State) : Nat := (s.regs.reqWidth.getD 0).toNat

/-- Channel operations of one attempt at most: 100 rounds of a flush, a reset byte and 10 polls, a command of 5 bytes with
5 echoes, and the data and checksum reads. -/
def opsPerAttempt (w : Nat) : Nat := 100 * 12 + 10 + (w + 1)

/-- Channel operations the present attempt can still make. -/
def State.opsLeftInAttempt (s : State) : Nat :=
  match s.st with
  | .attStart => opsPerAttempt s.width
  | .hsFlush => (100 - num s.regs.rnd) * 12 + 10 + (s.width + 1)
  | .hsReset => (99 - num s.regs.rnd) * 12 + 11 + 10 + (s.width + 1)
  | .hsPoll => (99 - num s.regs.rnd) * 12 + (10 - num s.regs.poll) + 10 + (s.width + 1)
  | .hsBackoff => (99 - num s.regs.rnd) * 12 + 10 + (s.width + 1)
  | .cmdSend => 2 * (num s.regs.cmdLen - num s.regs.seq) + (s.width + 1)
  | .cmdEcho => 2 * (num s.regs.cmdLen - num s.regs.seq) - 1 + (s.width + 1)
  | .dataRead => s.width - num s.regs.k + 1
  | .chkRead => 1
  | .attFail => 0
  | .idle => 0
  | .unused _ => 0

/-- Channel operations the READ in progress can still make; none in IDLE. -/
def State.opsLeft (s : State) : Nat :=
  if s.st = .idle then 0 else (49 - num s.regs.att) * opsPerAttempt s.width + s.opsLeftInAttempt

/-- Steps of one attempt at most, from ATT_START to ATT_FAIL: rounds of 13 steps, the command, the data, and both ends. -/
def stepsPerAttempt (w : Nat) : Nat := 100 * 13 + 10 + (w + 1) + 2

/-- Steps the present attempt can still take. -/
def State.stepsLeftInAttempt (s : State) : Nat :=
  match s.st with
  | .attStart => stepsPerAttempt s.width
  | .hsFlush => (100 - num s.regs.rnd) * 13 + 10 + (s.width + 1) + 1
  | .hsReset => (99 - num s.regs.rnd) * 13 + 12 + 10 + (s.width + 1) + 1
  | .hsPoll => (99 - num s.regs.rnd) * 13 + (11 - num s.regs.poll) + 10 + (s.width + 1) + 1
  | .hsBackoff => (99 - num s.regs.rnd) * 13 + 1 + 10 + (s.width + 1) + 1
  | .cmdSend => 2 * (num s.regs.cmdLen - num s.regs.seq) + (s.width + 1) + 1
  | .cmdEcho => 2 * (num s.regs.cmdLen - num s.regs.seq) - 1 + (s.width + 1) + 1
  | .dataRead => s.width - num s.regs.k + 1 + 1
  | .chkRead => 2
  | .attFail => 1
  | .idle => 0
  | .unused _ => 0

/-- Steps the READ in progress can still take; none in IDLE. -/
def State.stepsLeft (s : State) : Nat :=
  if s.st = .idle then 0 else (49 - num s.regs.att) * stepsPerAttempt s.width + s.stepsLeftInAttempt

/-- The channel has at least `n` answers of each kind to give: the duty of the channel that every operation returns
(rule R253), for the next `n` operations. -/
def State.answers (s : State) (n : Nat) : Prop :=
  n ≤ s.ch.flushes.length ∧ n ≤ s.ch.writes.length ∧ n ≤ s.ch.reads.length

/-! ### Rounding under TIE_POLICY (rules R172, R173) -/

/-- The tenths that TIE_POLICY admits for `e` hundredths: half away from zero, and at a tie under EITHER the neighbour
toward zero as well. -/
def AdmitsTenths (policy : Config.TiePolicy) (e v : Int) : Prop :=
  v = e.sign * ((e.natAbs + 5) / 10 : Nat) ∨
    (policy = .either ∧ e.natAbs % 10 = 5 ∧ v = e.sign * (e.natAbs / 10 : Nat))

/-! ### The trace input (rule R222) -/

/-- The trace after the events `evs`, newest first: they are emitted when TRACE_EN = 1 (rules R33, R221). -/
def State.traced (s : State) (evs : List TraceEvent) : List TraceEvent :=
  if s.traceEn then evs ++ s.trace else s.trace

/-- The state with the trace input and the trace itself forgotten: all that trace may not touch. -/
def State.untraced (s : State) : State := { s with traceEn := false, trace := [] }

/-- An outcome with the trace forgotten. -/
def untracedOutcome : Result → Result
  | .next s => .next s.untraced
  | .fault f => .fault f
  | .refused r => .refused r

/-! ### READ 0x0006 (rules R134, R250) -/

/-- Under SPECIAL_ECHO = NONE a READ of 0x0006 is not in its data phase. -/
def State.SpecialBarred (s : State) : Prop :=
  s.params.specialEcho = none → s.regs.reqAddr = some Config.specialAddr → s.st ≠ .dataRead ∧ s.st ≠ .chkRead

end Sys2Proof.Machine
end

