-- ==== Sys2Proof/Certificates/Slice0/Obligations.lean ====
section
/-! DEFINITION. The statements for the provers. Each docstring names the rule of spec/ it follows. -/

open Sys2Proof Sys2Proof.Machine

/-! ## Encoding -/

/-- Rules R80 to R92: every well-formed instruction, at every position where it may stand, decodes from its own code. -/
def Obligations.DecodeOfEncode : Prop :=
  ∀ (i : Instr) (p : Position), i.wf = true → i.standsAt p = true → decode p (encode i) = .ok i

/-- Rules R80 to R92: what decodes is the code of the instruction it decodes to, so no bit of a code is ignored. -/
def Obligations.EncodeOfDecode : Prop :=
  ∀ (p : Position) (c : Code) (i : Instr), decode p c = .ok i → encode i = c

/-- Words written out from the encodings of 30_encoding.md, one of each family. -/
def Obligations.SpecWordsDecode : Prop :=
  decode .request (.request 0x120346000000) = .ok (.read 2 0x0346) ∧
  decode .request (.request 0x31000000008E) = .ok (.expectedEcho 1 0x8E) ∧
  decode .request (.request 0x430057210135) = .ok (.checkData 3 0x57 0x21 0x01 0x35) ∧
  decode .request (.request 0x83000000012A) = .ok (.decodeWindDirection 3 0x00 0x01 0x2A) ∧
  decode (.commandSlot 1) (.symbol 0x8E) = .ok (.addrNibble 3) ∧
  decode (.commandSlot 4) (.symbol 0xCA) = .ok (.len 2) ∧
  decode .pollSlot (.symbol 0x7F) = .ok (.hsOther 0x7F) ∧
  decode (.echoSlot 2) (.symbol 0x24) = .ok (.echoAddr 2 4) ∧
  decode (.echoSlot 4) (.symbol 0x32) = .ok (.echoLen 2) ∧
  decode .dataSlot (.symbol 0x06) = .ok (.data 0x06)

/-! ## The step -/

/-- Rules R80, R81: a request word that decodes is run in IDLE, and taken off the host's queue (the queue is the model's:
notes/assumptions/12.md). -/
def Obligations.StepRunsDecodedRequest : Prop :=
  ∀ (s : State) (w : RequestWord) (rest : List RequestWord) (i : Instr),
    s.resetIn = false → s.st = .idle → s.requests = w :: rest → decode .request (.request w) = .ok i →
    step s = exec i { s with requests := rest }

/-- Rules R112, R136, R213, R214: the symbol due or received at the sequencer's position is the one the step runs
(the scripts of the channel's answers are the model's: notes/assumptions/10.md). -/
def Obligations.StepRunsDecodedSymbol : Prop :=
  ∀ s : State, s.resetIn = false →
    (s.st = .hsReset → step s = exec .reset s) ∧
    (∀ q b i, s.st = .cmdSend → s.regs.seq = some q → s.regs.cmdAt q = some b →
      decode (.commandSlot q) (.symbol b) = .ok i → step s = exec i s) ∧
    (∀ e rest v buf p i, s.ch.isOpen = true → s.ch.reads = e :: rest → readFrom s.ch.rxBuf e = (.byte v, buf) →
      ((s.st = .hsPoll ∧ p = .pollSlot) ∨ (s.st = .cmdEcho ∧ ∃ q, s.regs.seq = some q ∧ p = .echoSlot q) ∨
        (s.st = .dataRead ∧ p = .dataSlot) ∨ (s.st = .chkRead ∧ p = .checksumSlot)) →
      decode p (.symbol v) = .ok i → step s = exec i (s.readAt e rest))

/-- Rules R82, R83, R135: a request is refused exactly when it is ill formed; the refusal answers in the same step with
REFUSED and nothing else, makes no channel operation and stays in IDLE. -/
def Obligations.RefusedExactlyWhenIllFormed : Prop :=
  ∀ (s : State) (w : RequestWord) (rest : List RequestWord),
    s.resetIn = false → s.st = .idle → s.requests = w :: rest →
    (¬LegalRequest w → ∃ t, step s = .next t ∧ t.responses = { status := .refused } :: s.responses ∧ t.st = .idle ∧
      t.ch = s.ch ∧ t.regs = s.regs ∧ t.params = s.params ∧ t.requests = rest) ∧
    (LegalRequest w → ∀ t r, step s = .next t → t.responses = r :: s.responses → r.status ≠ .refused)

/-- Rules R80, R247: a request is taken in IDLE only, and one at a time. -/
def Obligations.RequestsTakenOnlyInIdle : Prop :=
  ∀ s t : State, step s = .next t →
    t.requests = s.requests ∨ (s.st = .idle ∧ ∃ w, s.requests = w :: t.requests)

/-- Rule R80 with 93_implementation_defined.md I16: a host operation outside IDLE is stuck; the fault's name
is the model's (notes/assumptions/23.md). -/
def Obligations.HostOperationOutsideIdleIsStuck : Prop :=
  ∀ (i : Instr) (s : State), i.isHostOp = true → s.st ≠ .idle → exec i s = .fault .requestOutsideIdle

/-! ## Reset -/

/-- Rules R44, R240: after reset `st` is IDLE, every register is unwritten, and nothing was sent or answered. That TRACE_EN,
an input with no reset value, is the undriven 0 is the model's choice (notes/assumptions/14.md), and so are the empty
records of what was sent and answered (notes/assumptions/21.md). The empty receive buffer is the model's choice too
(notes/assumptions/5.md) and is not stated. -/
def Obligations.ResetLeavesAllUnwritten : Prop :=
  State.reset.st = .idle ∧ State.reset.regs.reqAddr = none ∧ State.reset.regs.reqWidth = none ∧
  (∀ i (h : i < 5), State.reset.regs.cmd[i] = none) ∧ State.reset.regs.cmdLen = none ∧ State.reset.regs.att = none ∧
  State.reset.regs.rnd = none ∧ State.reset.regs.poll = none ∧ State.reset.regs.seq = none ∧ State.reset.regs.k = none ∧
  (∀ i (h : i < 3), State.reset.regs.data[i] = none) ∧ State.reset.regs.chk = none ∧ State.reset.regs.lastErr = none ∧
  State.reset.traceEn = false ∧ State.reset.ch.log = [] ∧ State.reset.responses = []

/-- Rules R240, R241: a block reset, in any state, gives IDLE with every register unwritten; a request in progress gets no
response, and nothing goes out on the channel. The reset as a pulse is the model's (notes/assumptions/13.md). -/
def Obligations.BlockResetAbandonsRequest : Prop :=
  ∀ s : State, s.resetIn = true →
    ∃ t, step s = .next t ∧ t.st = .idle ∧ t.regs = Regs.unwritten ∧ t.responses = s.responses ∧ t.ch.log = s.ch.log ∧
      t.ch.flushes = s.ch.flushes ∧ t.ch.writes = s.ch.writes ∧ t.ch.reads = s.ch.reads ∧ t.params = s.params ∧
      t.requests = s.requests

/-! ## The invariant -/

/-- The invariant holds after reset. -/
def Obligations.ResetMeetsInvariant : Prop := State.reset.Inv

/-- Rules R20 to R31 with R138, R157: every step keeps the registers written and in range for the sequencer state, SEQ up
to the command's length (notes/assumptions/18.md), RND up to 100 after a failed attempt (notes/assumptions/30.md), and the
ranges as propositions (notes/assumptions/20.md). -/
def Obligations.StepKeepsInvariant : Prop :=
  ∀ s t : State, s.Inv → step s = .next t → t.Inv

/-- Rules R21, R34, R208, R219: under the invariant no step reads an unwritten register or finds an unused state code; the
one stop is a legal READ taken with no open channel. The fault's name is the model's (notes/assumptions/23.md), and a
step whose channel operation has not returned answers the same state (notes/assumptions/10.md). -/
def Obligations.OnlyReadWithoutChannelStops : Prop :=
  ∀ s : State, s.Inv →
    (∃ t, step s = .next t) ∨
    (step s = .fault .noOpenChannel ∧ s.st = .idle ∧ s.resetIn = false ∧ s.ch.isOpen = false ∧
      ∃ (w : RequestWord) (rest : List RequestWord) (n : Nibble) (a : Addr),
        s.requests = w :: rest ∧ decode .request (.request w) = .ok (.read n a) ∧ 1 ≤ n.toNat ∧ n.toNat ≤ 3)

/-- Rule R34: when a response is delivered the block is in IDLE with every register unwritten. -/
def Obligations.ResponseLeavesAllUnwritten : Prop :=
  ∀ s t : State, s.Inv → step s = .next t → t.responses ≠ s.responses → t.st = .idle ∧ t.regs = Regs.unwritten

/-- No step changes the parameters or the trace input. That they are fields of State which no step writes is the model's
choice (notes/assumptions/4.md, notes/assumptions/14.md), with rules R8, R33 and R38. -/
def Obligations.StepKeepsParameters : Prop :=
  ∀ s t : State, step s = .next t → t.params = s.params ∧ t.traceEn = s.traceEn

/-! ## Host operations -/

/-- Rules R130, R131, R132: ENCODE_COMMAND. -/
def Obligations.EncodeCommandAnswers : Prop :=
  ∀ (s : State) (n : Nibble) (a : Addr), s.st = .idle →
    (n = 0 → exec (.encodeCommand n a) s = .next (s.deliver { status := .refused })) ∧
    (n ≠ 0 → a = 0x0006 →
      exec (.encodeCommand n a) s = .next (s.deliver { status := .ok, n := some 1, bytes := [0x06] })) ∧
    (n ≠ 0 → a ≠ 0x0006 →
      exec (.encodeCommand n a) s = .next (s.deliver
        { status := .ok
          n := some 5
          bytes := [BitVec.ofNat 8 (0x82 + 4 * (a.toNat / 4096)), BitVec.ofNat 8 (0x82 + 4 * (a.toNat / 256 % 16)),
            BitVec.ofNat 8 (0x82 + 4 * (a.toNat / 16 % 16)), BitVec.ofNat 8 (0x82 + 4 * (a.toNat % 16)),
            BitVec.ofNat 8 (min (0xC2 + 4 * n.toNat) 0xFE)] }))

/-- Rules R133, R134, R135: EXPECTED_ECHO, on its domain and off it. -/
def Obligations.ExpectedEchoAnswers : Prop :=
  ∀ (s : State) (seq : Nibble) (cmd : Byte), s.st = .idle →
    (∀ m, seq.toNat < 4 → m < 16 → cmd.toNat = 0x82 + 4 * m →
      exec (.expectedEcho seq cmd) s =
        .next (s.deliver { status := .ok, n := some 1, bytes := [BitVec.ofNat 8 (seq.toNat * 16 + m)] })) ∧
    (∀ m, seq = 4 → 1 ≤ m → m ≤ 15 → cmd.toNat = 0xC2 + 4 * m →
      exec (.expectedEcho seq cmd) s =
        .next (s.deliver { status := .ok, n := some 1, bytes := [BitVec.ofNat 8 (0x30 + m)] })) ∧
    (seq = 0 → cmd = 0x06 → s.params.specialEcho = none →
      exec (.expectedEcho seq cmd) s = .next (s.deliver { status := .ok, n := some 0 })) ∧
    (∀ v, seq = 0 → cmd = 0x06 → s.params.specialEcho = some v →
      exec (.expectedEcho seq cmd) s = .next (s.deliver { status := .ok, n := some 1, bytes := [v] })) ∧
    (¬((seq.toNat < 4 ∧ ∃ m, m < 16 ∧ cmd.toNat = 0x82 + 4 * m) ∨ (seq = 0 ∧ cmd = 0x06) ∨
        (seq = 4 ∧ ∃ m, 1 ≤ m ∧ m ≤ 15 ∧ cmd.toNat = 0xC2 + 4 * m)) →
      exec (.expectedEcho seq cmd) s = .next (s.deliver { status := .refused }))

/-- Rules R152, R153: CHECK_DATA. -/
def Obligations.CheckDataAnswers : Prop :=
  ∀ (s : State) (n : Nibble) (c b2 b1 b0 : Byte), s.st = .idle →
    (n = 1 → b2 = 0 → b1 = 0 → exec (.checkData n c b2 b1 b0) s =
      .next (s.deliver { status := .ok, ok := some (decide (b0.toNat = c.toNat)) })) ∧
    (n = 2 → b2 = 0 → exec (.checkData n c b2 b1 b0) s =
      .next (s.deliver { status := .ok, ok := some (decide ((b0.toNat + b1.toNat) % 256 = c.toNat)) })) ∧
    (n = 3 → exec (.checkData n c b2 b1 b0) s =
      .next (s.deliver { status := .ok, ok := some (decide ((b0.toNat + b1.toNat + b2.toNat) % 256 = c.toNat)) })) ∧
    (¬((n = 1 ∧ b2 = 0 ∧ b1 = 0) ∨ (n = 2 ∧ b2 = 0) ∨ n = 3) →
      exec (.checkData n c b2 b1 b0) s = .next (s.deliver { status := .refused }))

/-- Rules R172, R173, R174: DECODE_TEMPERATURE, under every TIE_POLICY (the count of free values is the model's:
notes/assumptions/8.md). -/
def Obligations.TemperatureAnswers : Prop :=
  ∀ (s : State) (b1 b0 : Byte), s.st = .idle →
    ∃ v draws, exec (.decodeTemperature b1 b0) s = .next ({ s with draws := draws }.deliver
        { status := .ok
          value := some v
          exact := some (10 * (b0.toNat / 16) + b0.toNat % 16 + 1000 * (b1.toNat / 16) + 100 * (b1.toNat % 16) - 3000) }) ∧
      AdmitsTenths s.params.tiePolicy
        (10 * (b0.toNat / 16) + b0.toNat % 16 + 1000 * (b1.toNat / 16) + 100 * (b1.toNat % 16) - 3000) v

/-- Rules R172, R173, R179: DECODE_PRECIPITATION, under every TIE_POLICY (the count of free values is the model's:
notes/assumptions/8.md). -/
def Obligations.PrecipitationAnswers : Prop :=
  ∀ (s : State) (b2 b1 b0 : Byte), s.st = .idle →
    ∃ v draws, exec (.decodePrecipitation b2 b1 b0) s = .next ({ s with draws := draws }.deliver
        { status := .ok
          value := some v
          exact := some (10 * (b0.toNat / 16) + b0.toNat % 16 + 1000 * (b1.toNat / 16) + 100 * (b1.toNat % 16) +
            100000 * (b2.toNat / 16) + 10000 * (b2.toNat % 16)) }) ∧
      AdmitsTenths s.params.tiePolicy
        (10 * (b0.toNat / 16) + b0.toNat % 16 + 1000 * (b1.toNat / 16) + 100 * (b1.toNat % 16) +
          100000 * (b2.toNat / 16) + 10000 * (b2.toNat % 16)) v

/-- Rules R175, R176, R180: the decoders that do not round; nibbles 10 to 15 by the formula as written (R184, decision
D16). -/
def Obligations.UnroundedDecodersAnswer : Prop :=
  ∀ (s : State) (b2 b1 b0 : Byte), s.st = .idle →
    exec (.decodeHumidity b0) s =
      .next (s.deliver { status := .ok, value := some (10 * (b0.toNat / 16) + b0.toNat % 16) }) ∧
    exec (.decodeWindSpeed b2 b1 b0) s =
      .next (s.deliver { status := .ok, value := some (256 * (b1.toNat % 16) + b0.toNat) }) ∧
    exec (.decodePressure b2 b1 b0) s =
      .next (s.deliver { status := .ok, value := some (10 * (b0.toNat / 16) + b0.toNat % 16 + 1000 * (b1.toNat / 16) +
        100 * (b1.toNat % 16) + 10000 * (b2.toNat % 16)) })

/-- Rules R177, R178: DECODE_WIND_DIRECTION, its label, and its refusals. -/
def Obligations.WindDirectionAnswers : Prop :=
  ∀ (s : State) (n : BitVec 2) (b2 b1 b0 : Byte), s.st = .idle →
    ((n = 1 ∧ b2 = 0 ∧ b1 = 0) ∨ n = 3 →
      ∃ r, exec (.decodeWindDirection n b2 b1 b0) s = .next (s.deliver r) ∧
        r = { status := .ok, value := some (225 * (b0.toNat / 16)), idx1 := some (BitVec.ofNat 4 (b0.toNat / 16)) } ∧
        r.compassLabel = ([.n, .nne, .ne, .ene, .e, .ese, .se, .sse, .s, .ssw, .sw, .wsw, .w, .wnw, .nw, .nnw] :
          List Compass)[b0.toNat / 16]?) ∧
    (¬((n = 1 ∧ b2 = 0 ∧ b1 = 0) ∨ n = 3) →
      exec (.decodeWindDirection n b2 b1 b0) s = .next (s.deliver { status := .refused }))

/-- Rules R181, R182, R207: DECODE_TENDENCY_FORECAST with its labels, and DECODE_RANGE beyond its tables (the spec's
decision D15). -/
def Obligations.TendencyForecastAnswers : Prop :=
  ∀ (s : State) (b0 : Byte), s.st = .idle →
    (b0.toNat / 16 ≤ 2 → b0.toNat % 16 ≤ 2 →
      ∃ r, exec (.decodeTendencyForecast b0) s = .next (s.deliver r) ∧
        r = { status := .ok, idx1 := some (BitVec.ofNat 4 (b0.toNat / 16)),
              idx2 := some (BitVec.ofNat 4 (b0.toNat % 16)) } ∧
        r.tendencyLabel = ([.steady, .rising, .falling] : List Tendency)[b0.toNat / 16]? ∧
        r.forecastLabel = ([.rainy, .cloudy, .sunny] : List Forecast)[b0.toNat % 16]?) ∧
    (2 < b0.toNat / 16 ∨ 2 < b0.toNat % 16 →
      exec (.decodeTendencyForecast b0) s = .next (s.deliver { status := .decodeRange }))

/-- Rules R156, R219: READ is accepted in IDLE, is refused for a width outside 1 to 3, and is stuck with no open channel
(the fault's name is the model's: notes/assumptions/23.md). -/
def Obligations.ReadIsAccepted : Prop :=
  ∀ (s : State) (n : Nibble) (a : Addr), s.st = .idle →
    (1 ≤ n.toNat → n.toNat ≤ 3 → s.ch.isOpen = true →
      exec (.read n a) s = .next { s with
        st := .attStart
        regs := { s.regs with reqAddr := some a, reqWidth := some n, att := some 0 }
        trace := s.traced [.readStart a n] }) ∧
    (1 ≤ n.toNat → n.toNat ≤ 3 → s.ch.isOpen = false → exec (.read n a) s = .fault .noOpenChannel) ∧
    (¬(1 ≤ n.toNat ∧ n.toNat ≤ 3) → exec (.read n a) s = .next (s.deliver { status := .refused }))

/-- Rules R132, R135, R153, R170, R206: every host operation but READ touches no register and no part of the channel, and
gives exactly one response. -/
def Obligations.PureOperationsFrame : Prop :=
  ∀ (i : Instr) (s t : State), i.isHostOp = true → (∀ n a, i ≠ .read n a) → exec i s = .next t →
    (∃ r, t.responses = r :: s.responses) ∧ t.st = s.st ∧ t.regs = s.regs ∧ t.ch = s.ch ∧ t.requests = s.requests ∧
      t.params = s.params ∧ t.traceEn = s.traceEn ∧ t.resetIn = s.resetIn

/-! ## Formulas -/

/-- Rules R171, R172: RT is the rounding of exact hundredths to one decimal. -/
def Obligations.TenthsAreOneDecimalRounding : Prop :=
  ∀ v : Int, (rt v : ℚ) / 10 = roundDec ((v : ℚ) / 100) 1

/-- Rule R171: rounding is the source's procedure, the integer part kept and the fraction of the magnitude rounded half up
with the sign restored; it is idempotent. -/
def Obligations.RoundingIsSourceProcedure : Prop :=
  ∀ (x : ℚ) (n : Nat),
    roundDec x n = (if x < 0 then -1 else 1) * ((⌊|x|⌋ : ℚ) + (⌊Int.fract |x| * 10 ^ n + 1 / 2⌋ : ℚ) / 10 ^ n) ∧
    roundDec (roundDec x n) n = roundDec x n

/-- Rules R140 (a), (c), R131: a general command has 5 bytes in [0x82, 0xFE]; 0x0006, and only it, has the one byte 0x06. -/
def Obligations.CommandBytesInRange : Prop :=
  ∀ (a : Addr) (w : Nat), 1 ≤ w →
    (a ≠ 0x0006 → (encodeCmd a w).length = 5 ∧ ∀ b ∈ encodeCmd a w, 0x82 ≤ b.toNat ∧ b.toNat ≤ 0xFE) ∧
    ((encodeCmd a w).length = 1 ↔ a = 0x0006) ∧ (a = 0x0006 → encodeCmd a w = [0x06])

/-- Rules R140 (d), (e), R98: a command determines its address, and its width up to the cap. -/
def Obligations.CommandDeterminesRequest : Prop :=
  (∀ (a a' : Addr) (w : Nat), encodeCmd a w = encodeCmd a' w → a = a') ∧
  (∀ (a : Addr) (w w' : Nat), a ≠ 0x0006 → 1 ≤ w → w ≤ 15 → 1 ≤ w' → w' ≤ 15 →
    encodeCmd a w = encodeCmd a w' → w = w') ∧
  (∀ (a : Addr) (w : Nat), 15 ≤ w → encodeCmd a w = encodeCmd a 15)

/-- Rules R91, R133, R141: the echoes of a general command are its nibbles behind their positions, and 0x30 + width. -/
def Obligations.EchoesOfGeneralCommand : Prop :=
  ∀ (p : Config.Params) (a : Addr) (w : Nat), a ≠ 0x0006 → 1 ≤ w →
    (List.range 5).map (fun q => (encodeCmd a w)[q]?.bind (expectedEcho p q)) =
      [some (BitVec.ofNat 8 (a.toNat / 4096)), some (BitVec.ofNat 8 (0x10 + a.toNat / 256 % 16)),
        some (BitVec.ofNat 8 (0x20 + a.toNat / 16 % 16)), some (BitVec.ofNat 8 (0x30 + a.toNat % 16)),
        some (BitVec.ofNat 8 (0x30 + min w 15))]

/-- Rule R161: changing exactly one of the data and checksum bytes is detected; adding 1 to one byte and taking 1 from the
next is not. -/
def Obligations.ChecksumDetectsOneByte : Prop :=
  (∀ (before after : List Byte) (b b' : Byte), b ≠ b' →
    chkOk (before ++ b' :: after) (checksum (before ++ b :: after)) = false) ∧
  (∀ (d : List Byte) (c : Byte), c ≠ checksum d → chkOk d c = false) ∧
  ∀ (b0 b1 : Byte) (after : List Byte),
    chkOk ((b0 + 1) :: (b1 - 1) :: after) (checksum (b0 :: b1 :: after)) = true

/-- Rules R174, R176, R179 with R184: the ranges of the decoder formulas over all bytes, reached at both ends. -/
def Obligations.DecoderRanges : Prop :=
  (∀ b1 b0, -3000 ≤ temperatureExact b1 b0 ∧ temperatureExact b1 b0 ≤ 13665) ∧
  (∀ b1 b0, 0 ≤ windSpeedValue b1 b0 ∧ windSpeedValue b1 b0 ≤ 4095) ∧
  (∀ v : Nat, v ≤ 4095 → ∃ b1 b0, windSpeedValue b1 b0 = v) ∧
  (∀ b2 b1 b0, 0 ≤ precipitationExact b2 b1 b0 ∧ precipitationExact b2 b1 b0 ≤ 1666665) ∧
  temperatureExact 0x00 0x00 = -3000 ∧ temperatureExact 0xFF 0xFF = 13665 ∧
  precipitationExact 0x00 0x00 0x00 = 0 ∧ precipitationExact 0xFF 0xFF 0xFF = 1666665

/-- Rule R183: the bits a decoder ignores affect no result. -/
def Obligations.IgnoredBitsHaveNoEffect : Prop :=
  ∀ (s : State) (b2 b1 b0 c2 c1 c0 : Byte),
    (b1.toNat % 16 = c1.toNat % 16 → exec (.decodeWindSpeed b2 b1 b0) s = exec (.decodeWindSpeed c2 c1 b0) s) ∧
    (b0.toNat / 16 = c0.toNat / 16 →
      exec (.decodeWindDirection 3 b2 b1 b0) s = exec (.decodeWindDirection 3 c2 c1 c0) s ∧
      exec (.decodeWindDirection 1 0 0 b0) s = exec (.decodeWindDirection 3 c2 c1 c0) s) ∧
    (b2.toNat % 16 = c2.toNat % 16 → exec (.decodePressure b2 b1 b0) s = exec (.decodePressure c2 b1 b0) s)

/-- Rules R54, R105: READ of a named region is well formed and is taken in IDLE, whatever addresses MEMORY_MAP gives
(free values: notes/assumptions/6.md). -/
def Obligations.NamedReadsAreAccepted : Prop :=
  ∀ (r : Config.Region) (s : State), s.st = .idle → s.ch.isOpen = true →
    (readNamed r).wf = true ∧ ∃ t, exec (readNamed r) s = .next t ∧ t.st = .attStart ∧
      t.regs.reqAddr = some (regionAddr r) ∧ t.regs.reqWidth = some (regionWidth r) ∧ t.regs.att = some 0

/-! ## Handshake -/

/-- Rules R111, R119: HS_FLUSH. The buffer a failed flush leaves is a free value (notes/assumptions/7.md) and is
not stated. -/
def Obligations.FlushStep : Prop :=
  ∀ (s : State) (rest : List IoResult), s.resetIn = false → s.st = .hsFlush → s.ch.isOpen = true →
    (s.ch.flushes = .ok :: rest → step s = .next { s with
      st := .hsReset
      ch := { s.ch with flushes := rest, rxBuf := [], log := .flush .ok :: s.ch.log }
      trace := s.traced [.roundStart s.regs.att s.regs.rnd] }) ∧
    (s.ch.flushes = .ioerr :: rest → ∃ buf draws, step s = .next { s with
      st := .attFail
      regs := { s.regs with lastErr := some .channelIo }
      ch := { s.ch with flushes := rest, rxBuf := buf, log := .flush .ioerr :: s.ch.log }
      trace := s.traced [.error (.channelIo .handshakeFlush) .hsFlush, .roundStart s.regs.att s.regs.rnd]
      draws := draws })

/-- Rules R40, R69, R123, R248: after a flush no read returns a byte buffered before it, but the first byte to arrive after
it, or none; a read from a buffer that is not empty returns its oldest byte and keeps the others; and a byte buffered
when a command byte is sent is read as that byte's echo. The buffer is held by the model (notes/assumptions/11.md). -/
def Obligations.FlushDiscardsStaleBytes : Prop :=
  (∀ (s t u : State) (rest : List IoResult) (bs : List Byte) (more : List RdEvent) (b : Byte) (w : List IoResult),
    s.resetIn = false → s.st = .hsFlush → s.ch.isOpen = true → s.ch.flushes = .ok :: rest → step s = .next t →
    t.ch.writes = .ok :: w → t.ch.reads = .arrived bs :: more → step t = .next u →
    u.st = .hsPoll ∧ (readFrom u.ch.rxBuf (.arrived bs)).1 = (match bs.head? with | some v => .byte v | none => .timeout) ∧
      (readFrom u.ch.rxBuf (.arrived (b :: bs))).1 = .byte b) ∧
  (∀ (s : State) (v : Byte) (older bs : List Byte) (rest : List RdEvent) (k : RdResult → State → Result),
    s.ch.isOpen = true → s.ch.rxBuf = v :: older → s.ch.reads = .arrived bs :: rest →
    readFrom s.ch.rxBuf (.arrived bs) = (.byte v, older ++ bs) ∧
      chRead s k = k (.byte v)
        { s with ch := { s.ch with reads := rest, rxBuf := older ++ bs, log := .read (.byte v) :: s.ch.log } }) ∧
  (∀ (s t u : State) (v : Byte) (older bs : List Byte) (rest : List RdEvent) (w : List IoResult),
    s.resetIn = false → s.st = .cmdSend → s.ch.rxBuf = v :: older → s.ch.writes = .ok :: w →
    s.ch.reads = .arrived bs :: rest → step s = .next t → step t = .next u →
    t.st = .cmdEcho ∧ u.ch.log = .read (.byte v) :: t.ch.log ∧ u.ch.rxBuf = older ++ bs ∧
      (∀ q c, s.regs.seq = some q → s.regs.cmdAt q = some c → expectedEcho s.params q c ≠ some v →
        u.st = .attFail ∧ u.regs.lastErr = some .echoMismatch))

/-- Rules R86, R112, R119: RESET in HS_RESET. That a failed write ends the attempt is the spec's decision D9. -/
def Obligations.ResetByteIsWritten : Prop :=
  ∀ (s : State) (rest : List IoResult), s.st = .hsReset → s.ch.isOpen = true →
    (s.ch.writes = .ok :: rest → exec .reset s = .next { s with
      st := .hsPoll
      regs := { s.regs with poll := some 0 }
      ch := { s.ch with writes := rest, log := .write 0x06 .ok :: s.ch.log }
      trace := s.traced [.tx 0x06 .ok] }) ∧
    (s.ch.writes = .ioerr :: rest → exec .reset s = .next { s with
      st := .attFail
      regs := { s.regs with lastErr := some .channelIo }
      ch := { s.ch with writes := rest, log := .write 0x06 .ioerr :: s.ch.log }
      trace := s.traced [.error (.channelIo .handshakeWrite) .hsReset, .tx 0x06 .ioerr] })

/-- Rules R113 to R117: BUSY, READY and OTHER in HS_POLL, of at most 10 reads (the spec's decision D33). -/
def Obligations.PollBytesAreClassified : Prop :=
  ∀ (s : State) (p : Nat), s.st = .hsPoll → s.regs.poll = some p →
    exec .busy s = .next { s with
      st := if p + 1 < 10 then .hsPoll else .hsBackoff
      regs := { s.regs with poll := some (p + 1) }
      trace := s.traced [.rx (.byte 0x01) .hsPoll] } ∧
    exec .ready s = .next { s with
      st := .cmdSend
      regs := { s.regs with poll := some (p + 1), seq := some 0 }
      trace := s.traced [.rx (.byte 0x02) .hsPoll] } ∧
    ∀ v : Byte, v ≠ 0x01 → v ≠ 0x02 → exec (.hsOther v) s = .next { s with
      st := .hsBackoff
      regs := { s.regs with poll := some (p + 1) }
      trace := s.traced [.rx (.byte v) .hsPoll] }

/-- Rule R116: a byte other than 0x01 and 0x02, a timeout or a read error abandons the round, and only the round. -/
def Obligations.PollFailuresAbandonRound : Prop :=
  ∀ (s : State) (p : Nat) (e : RdEvent) (rest : List RdEvent) (r : RdResult) (buf : List Byte),
    s.resetIn = false → s.st = .hsPoll → s.ch.isOpen = true → s.regs.poll = some p → s.ch.reads = e :: rest →
    readFrom s.ch.rxBuf e = (r, buf) → (r = .timeout ∨ r = .ioerr ∨ ∃ v, r = .byte v ∧ v ≠ 0x01 ∧ v ≠ 0x02) →
    step s = .next { s with
      st := .hsBackoff
      regs := { s.regs with poll := some (p + 1) }
      ch := { s.ch with reads := rest, rxBuf := buf, log := .read r :: s.ch.log }
      trace := s.traced [.rx r .hsPoll] }

/-- Rule R118: HS_BACKOFF. RND stays 100 in ATT_FAIL (notes/assumptions/30.md). -/
def Obligations.BackoffStep : Prop :=
  ∀ (s : State) (rnd : Nat), s.resetIn = false → s.st = .hsBackoff → s.regs.rnd = some rnd →
    (rnd + 1 ≠ 100 → step s = .next { s with
      st := .hsFlush
      regs := { s.regs with rnd := some (rnd + 1) }
      ch := { s.ch with log := .wait (100 * (rnd + 1)) :: s.ch.log }
      trace := s.traced [.backoff rnd (100 * (rnd + 1))] }) ∧
    (rnd + 1 = 100 → step s = .next { s with
      st := .attFail
      regs := { s.regs with rnd := some 100, lastErr := some .handshakeFailed }
      ch := { s.ch with log := .wait 10000 :: s.ch.log }
      trace := s.traced [.error (.handshakeFailed 100) .hsBackoff, .backoff rnd 10000] })

/-! ## Command and echo -/

/-- Rules R87, R88, R89, R93, R94, R136: ADDR_NIBBLE, LEN and CMD_SPECIAL are sent in CMD_SEND, at their positions. -/
def Obligations.CommandSymbolsAreSent : Prop :=
  ∀ (s : State) (i : Instr) (q : Nat) (b : Byte) (rest : List IoResult),
    ((∃ n : Nibble, i = .addrNibble n ∧ q < 4 ∧ b.toNat = 0x82 + 4 * n.toNat) ∨
      (∃ w : Nibble, i = .len w ∧ q = 4 ∧ b.toNat = 0xC2 + 4 * w.toNat) ∨ (i = .cmdSpecial ∧ q = 0 ∧ b = 0x06)) →
    s.st = .cmdSend → s.ch.isOpen = true → s.regs.seq = some q → s.regs.cmdAt q = some b →
    (s.ch.writes = .ok :: rest → exec i s = .next { s with
      st := .cmdEcho
      ch := { s.ch with writes := rest, log := .write b .ok :: s.ch.log }
      trace := s.traced [.tx b .ok] }) ∧
    (s.ch.writes = .ioerr :: rest → exec i s = .next { s with
      st := .attFail
      regs := { s.regs with lastErr := some .channelIo }
      ch := { s.ch with writes := rest, log := .write b .ioerr :: s.ch.log }
      trace := s.traced [.error (.channelIo (.command q)) .cmdSend, .tx b .ioerr] })

/-- Rules R99, R101: the block sends a symbol at its position only. Stopping elsewhere is the model's choice
(notes/assumptions/17.md). -/
def Obligations.SentSymbolsHaveOnePlace : Prop :=
  ∀ (i : Instr) (s : State),
    (i = .reset → s.st ≠ .hsReset → exec i s = .fault .symbolOutOfPosition) ∧
    (((∃ n, i = .addrNibble n) ∨ (∃ w, i = .len w) ∨ i = .cmdSpecial) → s.st ≠ .cmdSend →
      exec i s = .fault .symbolOutOfPosition)

/-- Rules R137, R138: an echo symbol in CMD_ECHO advances the command if it is the expected byte, and raises EchoMismatch
if it is not. -/
def Obligations.EchoSymbolsAreJudged : Prop :=
  ∀ (s : State) (i : Instr) (v c : Byte) (q len : Nat),
    ((∃ (z : BitVec 2) (n : Nibble), i = .echoAddr z n ∧ v.toNat = 16 * z.toNat + n.toNat) ∨
      (∃ w : Nibble, i = .echoLen w ∧ v.toNat = 0x30 + w.toNat)) →
    s.st = .cmdEcho → s.regs.seq = some q → s.regs.cmdAt q = some c → s.regs.cmdLen = some len →
    (expectedEcho s.params q c = some v → q + 1 ≠ len → exec i s = .next { s with
      st := .cmdSend
      regs := { s.regs with seq := some (q + 1) }
      trace := s.traced [.rx (.byte v) .cmdEcho] }) ∧
    (expectedEcho s.params q c = some v → q + 1 = len → exec i s = .next { s with
      st := .dataRead
      regs := { s.regs with seq := some (q + 1), k := some 0 }
      trace := s.traced [.rx (.byte v) .cmdEcho] }) ∧
    (expectedEcho s.params q c ≠ some v → exec i s = .next { s with
      st := .attFail
      regs := { s.regs with lastErr := some .echoMismatch }
      trace := s.traced [.error (.echoMismatch q (expectedEcho s.params q c) v) .cmdEcho, .rx (.byte v) .cmdEcho] })

/-- Rules R137, R138: whatever the matching byte is (under SPECIAL_ECHO = VALUE(v) it need be no echo symbol), the step advances to
the next command byte, or to the data after the last. -/
def Obligations.MatchingEchoAdvances : Prop :=
  ∀ (s : State) (e : RdEvent) (rest : List RdEvent) (q len : Nat) (c v : Byte) (buf : List Byte),
    s.resetIn = false → s.st = .cmdEcho → s.ch.isOpen = true → s.regs.seq = some q → s.regs.cmdAt q = some c →
    s.regs.cmdLen = some len → s.ch.reads = e :: rest → readFrom s.ch.rxBuf e = (.byte v, buf) →
    expectedEcho s.params q c = some v →
    (q + 1 = len → step s = .next { s with
      st := .dataRead
      regs := { s.regs with seq := some (q + 1), k := some 0 }
      ch := { s.ch with reads := rest, rxBuf := buf, log := .read (.byte v) :: s.ch.log }
      trace := s.traced [.rx (.byte v) .cmdEcho] }) ∧
    (q + 1 ≠ len → step s = .next { s with
      st := .cmdSend
      regs := { s.regs with seq := some (q + 1) }
      ch := { s.ch with reads := rest, rxBuf := buf, log := .read (.byte v) :: s.ch.log }
      trace := s.traced [.rx (.byte v) .cmdEcho] })

/-- Rule R202: whatever byte is read in CMD_ECHO, if it is not the expected one the step raises EchoMismatch; and under
SPECIAL_ECHO = NONE no byte is the expected echo of the one-byte command. -/
def Obligations.EchoMismatchIsRaised : Prop :=
  (∀ (s : State) (e : RdEvent) (rest : List RdEvent) (q : Nat) (c v : Byte) (buf : List Byte),
    s.resetIn = false → s.st = .cmdEcho → s.ch.isOpen = true → s.regs.seq = some q → s.regs.cmdAt q = some c →
    s.ch.reads = e :: rest → readFrom s.ch.rxBuf e = (.byte v, buf) → expectedEcho s.params q c ≠ some v →
    step s = .next { s with
      st := .attFail
      regs := { s.regs with lastErr := some .echoMismatch }
      ch := { s.ch with reads := rest, rxBuf := buf, log := .read (.byte v) :: s.ch.log }
      trace := s.traced
        [.error (.echoMismatch q (expectedEcho s.params q c) v) .cmdEcho, .rx (.byte v) .cmdEcho] }) ∧
  ∀ (p : Config.Params) (v : Byte), p.specialEcho = none → expectedEcho p 0 0x06 ≠ some v

/-! ## Data, checksum and retry -/

/-- Rule R157: ATT_START builds the command and clears the attempt. -/
def Obligations.AttemptStartBuildsCommand : Prop :=
  ∀ (s : State) (a : Addr) (w : Nibble),
    s.resetIn = false → s.st = .attStart → s.regs.reqAddr = some a → s.regs.reqWidth = some w →
    step s = .next { s with
      st := .hsFlush
      regs :=
        { reqAddr := some a, reqWidth := some w
          cmd := #v[(encodeCmd a w.toNat)[0]?, (encodeCmd a w.toNat)[1]?, (encodeCmd a w.toNat)[2]?,
            (encodeCmd a w.toNat)[3]?, (encodeCmd a w.toNat)[4]?]
          cmdLen := some (if a = 0x0006 then 1 else 5), att := s.regs.att, rnd := some 0, poll := none, seq := none
          k := none, data := #v[none, none, none], chk := none, lastErr := none }
      trace := s.traced [.attemptStart s.regs.att] }

/-- Rule R150: DATA in DATA_READ. -/
def Obligations.DataByteIsStored : Prop :=
  ∀ (s : State) (d : Byte) (k : Nat) (w : Nibble) (h : k < 3),
    s.st = .dataRead → s.regs.k = some k → s.regs.reqWidth = some w →
    exec (.data d) s = .next { s with
      st := if k + 1 = w.toNat then .chkRead else .dataRead
      regs := { s.regs with data := s.regs.data.set k (some d), k := some (k + 1) }
      trace := s.traced [.rx (.byte d) .dataRead] }

/-- Rules R34, R151, R154, R203: CHKSUM in CHK_READ ends the READ with the data if the sum matches, and raises
ChecksumMismatch if it does not. The field `fails` is the spec's decision D35, the registers unwritten its D6. -/
def Obligations.ChecksumByteIsJudged : Prop :=
  ∀ (s : State) (c : Byte) (w : Nibble) (d : List Byte) (att : Nat),
    s.st = .chkRead → s.regs.reqWidth = some w → s.regs.att = some att → d.length = w.toNat → w.toNat ≤ 3 →
    (∀ i, i < w.toNat → s.regs.data[i]?.join = d[i]?) →
    ((d.map BitVec.toNat).sum % 256 = c.toNat → exec (.chksum c) s = .next { s with
      st := .idle
      regs := Regs.unwritten
      responses := { status := .ok, fails := some att, n := some w.toNat, bytes := d } :: s.responses
      trace := s.traced [.result .ok (some att), .rx (.byte c) .chkRead] }) ∧
    ((d.map BitVec.toNat).sum % 256 ≠ c.toNat → exec (.chksum c) s = .next { s with
      st := .attFail
      regs := { s.regs with chk := some c, lastErr := some .checksumMismatch }
      trace := s.traced [.error (.checksumMismatch (BitVec.ofNat 8 ((d.map BitVec.toNat).sum % 256)) c) .chkRead,
        .rx (.byte c) .chkRead] })

/-- Rules R204, R213, R214: outside the handshake poll a read that returns no byte raises ChannelIo, whatever byte was
due. -/
def Obligations.ReadFailureIsChannelIo : Prop :=
  ∀ (s : State) (e : RdEvent) (rest : List RdEvent) (r : RdResult) (buf : List Byte) (at_ : IoPoint),
    s.resetIn = false → s.ch.isOpen = true → s.ch.reads = e :: rest → readFrom s.ch.rxBuf e = (r, buf) →
    (r = .timeout ∨ r = .ioerr) →
    ((s.st = .cmdEcho ∧ ∃ q, s.regs.seq = some q ∧ at_ = .echo q) ∨
      (s.st = .dataRead ∧ ∃ k, s.regs.k = some k ∧ at_ = .data k) ∨ (s.st = .chkRead ∧ at_ = .checksum)) →
    step s = .next { s with
      st := .attFail
      regs := { s.regs with lastErr := some .channelIo }
      ch := { s.ch with reads := rest, rxBuf := buf, log := .read r :: s.ch.log }
      trace := s.traced [.error (.channelIo at_) s.st, .rx r s.st] }

/-- Rule R209: `raise` records the kind, moves to ATT_FAIL and saves nothing else. -/
def Obligations.RaiseSavesOnlyTheKind : Prop :=
  ∀ (s : State) (e : LocalError), s.raise e = { s with
    st := .attFail
    regs := { s.regs with lastErr := some e.kind }
    trace := s.traced [.error e s.st] }

/-- Rules R34, R155: ATT_FAIL counts the attempt, and retries or gives up, with every register unwritten (the spec's
decision D6). -/
def Obligations.FailedAttemptIsCounted : Prop :=
  ∀ (s : State) (att : Nat), s.resetIn = false → s.st = .attFail → s.regs.att = some att →
    (att + 1 ≠ 50 → step s = .next { s with
      st := .attStart
      regs := { s.regs with att := some (att + 1) }
      trace := s.traced [.attemptFail (some att) s.regs.lastErr] }) ∧
    (att + 1 = 50 → step s = .next { s with
      st := .idle
      regs := Regs.unwritten
      responses := { status := .readExhausted, fails := some 50 } :: s.responses
      trace := s.traced [.result .readExhausted (some 50), .attemptFail (some att) s.regs.lastErr] })

/-- Rules R40, R248: a byte the console sends while the block reads none waits in the receive buffer. That this is
the symbol's meaning there is the model's inference (notes/assumptions/16.md). -/
def Obligations.UnreadBytesAreBuffered : Prop :=
  ∀ (s : State) (i : Instr) (v : Byte), encode i = .symbol v →
    (i = .busy ∨ i = .ready ∨ (∃ b, i = .hsOther b) ∨ (∃ z n, i = .echoAddr z n) ∨ (∃ w, i = .echoLen w) ∨
      (∃ d, i = .data d) ∨ ∃ c, i = .chksum c) →
    (s.st = .idle ∨ s.st = .attStart ∨ s.st = .hsFlush ∨ s.st = .hsReset ∨ s.st = .hsBackoff ∨ s.st = .cmdSend ∨
      s.st = .attFail) →
    exec i s = .next { s with ch := { s.ch with rxBuf := s.ch.rxBuf ++ [v] } }

/-! ## Whole-machine rules -/

/-- Rule R222: trace has no effect on any other output or state. -/
def Obligations.TraceHasNoEffect : Prop :=
  ∀ s t : State, s.untraced = t.untraced → untracedOutcome (step s) = untracedOutcome (step t)

/-- Rules R68, R213: a step makes at most one channel operation, and the transcript only grows. -/
def Obligations.OneChannelOperationPerStep : Prop :=
  ∀ s t : State, step s = .next t → t.ch.log = s.ch.log ∨ ∃ tok, t.ch.log = tok :: s.ch.log

/-- Rule R101: the block sends only 0x06, ADDR_NIBBLE bytes and the length bytes of widths 1 to 3. -/
def Obligations.OnlyProtocolBytesAreSent : Prop :=
  ∀ (s t : State) (b : Byte) (r : IoResult), s.Inv → step s = .next t → t.ch.log = .write b r :: s.ch.log →
    b = 0x06 ∨ (∃ n, n < 16 ∧ b.toNat = 0x82 + 4 * n) ∨ ∃ w, 1 ≤ w ∧ w ≤ 3 ∧ b.toNat = 0xC2 + 4 * w

/-- Rules R205, R210: a READ in progress delivers no response before it ends, and then exactly one, OK or READ_EXHAUSTED. -/
def Obligations.ReadRespondsOnceAtItsEnd : Prop :=
  ∀ s t : State, s.Inv → s.st ≠ .idle → s.resetIn = false → step s = .next t →
    (t.st ≠ .idle ∧ t.responses = s.responses) ∨
    (t.st = .idle ∧ ∃ r, t.responses = r :: s.responses ∧
      ((r.status = .ok ∧ (∃ f, r.fails = some f ∧ f ≤ 49) ∧ r.n = some s.width ∧ r.bytes.length = s.width) ∨
        r = { status := .readExhausted, fails := some 50 }))

/-- Rules R134, R250: under SPECIAL_ECHO = NONE a READ of 0x0006 never reaches its data, and never answers OK. -/
def Obligations.SpecialAddressNeverSucceeds : Prop :=
  ∀ s t : State, s.Inv → s.SpecialBarred → step s = .next t →
    t.SpecialBarred ∧
    (s.params.specialEcho = none → s.regs.reqAddr = some 0x0006 → s.st ≠ .idle →
      ∀ r, t.responses = r :: s.responses → r = { status := .readExhausted, fails := some 50 })

/-- Rules R121, R159: what a step spends of channel operations it takes off the READ's budget, which starts at no more
than 60 700. -/
def Obligations.ChannelOperationsAreBudgeted : Prop :=
  (∀ s t : State, s.Inv → s.st ≠ .idle → s.resetIn = false → step s = .next t →
    channelOps t.ch.log + t.opsLeft ≤ channelOps s.ch.log + s.opsLeft) ∧
  (∀ (s t : State) (n : Nibble) (a : Addr), s.st = .idle → exec (.read n a) s = .next t → t.st = .attStart →
    t.opsLeft ≤ 60700)

/-- Rules R159, R253: a READ in progress on a channel whose operations return ends, within its budget of steps, with
exactly one more response and no more channel operations than its budget. The scripts are the model's
(notes/assumptions/10.md), and no block reset arrives in the run (notes/assumptions/13.md). -/
def Obligations.ReadEndsWithinItsBudget : Prop :=
  ∀ s : State, s.Inv → s.st ≠ .idle → s.resetIn = false → s.answers s.opsLeft →
    ∃ n t, n ≤ s.stepsLeft ∧ Sys2Proof.core.run n s = .next t ∧ t.st = .idle ∧
      (∃ r, t.responses = r :: s.responses) ∧ channelOps t.ch.log ≤ channelOps s.ch.log + s.opsLeft

/-- Rules R154, R156 (95_test_vectors.md L1.15): against a console that answers READY, echoes every command byte and sends
`d` with its checksum, a READ of `d`'s width answers OK with exactly `d` and no failed attempt. The scripts
are the model's (notes/assumptions/10.md, 12.md), and no block reset arrives in the run (notes/assumptions/13.md). -/
def Obligations.CorrectConsoleIsReadAtOnce : Prop :=
  ∀ (s : State) (a : Addr) (n : Nibble) (d : List Byte) (rest : List RequestWord) (fl wr : List IoResult)
    (rd : List RdEvent),
    s.Inv → s.st = .idle → s.resetIn = false → s.ch.isOpen = true → a ≠ 0x0006 → 1 ≤ n.toNat → n.toNat ≤ 3 →
    d.length = n.toNat → s.requests = packRequest 0x1 n a 0 0 0 :: rest →
    s.ch.flushes = .ok :: fl → s.ch.writes = List.replicate 6 .ok ++ wr →
    s.ch.reads = .arrived [0x02] ::
      ([BitVec.ofNat 8 (a.toNat / 4096), BitVec.ofNat 8 (0x10 + a.toNat / 256 % 16),
        BitVec.ofNat 8 (0x20 + a.toNat / 16 % 16), BitVec.ofNat 8 (0x30 + a.toNat % 16),
        BitVec.ofNat 8 (0x30 + n.toNat)] ++ d ++ [BitVec.ofNat 8 ((d.map BitVec.toNat).sum % 256)]).map
        (fun v => RdEvent.arrived [v]) ++ rd →
    ∃ k t, Sys2Proof.core.run k s = .next t ∧ t.st = .idle ∧ t.regs = Regs.unwritten ∧ t.requests = rest ∧
      t.responses = { status := .ok, fails := some 0, n := some n.toNat, bytes := d } :: s.responses
end

