-- ==== Sys2Proof/Laws/Decode.lean ====
section
/-! SUPPORT. The fields of a packed request word and of a symbol's byte, and the form of a decoded symbol's encoding. -/

namespace Sys2Proof

/-! ### Request words -/

theorem packRequest_toNat (op n : Nibble) (a : Addr) (p2 p1 p0 : Byte) :
    (packRequest op n a p2 p1 p0).toNat =
      op.toNat * 2 ^ 44 + n.toNat * 2 ^ 40 + a.toNat * 2 ^ 24 + p2.toNat * 2 ^ 16 + p1.toNat * 2 ^ 8 + p0.toNat := by
  have h0 := p0.isLt
  have h1 := p1.isLt
  have h2 := p2.isLt
  have h3 := a.isLt
  have h4 := n.isLt
  unfold packRequest
  simp only [BitVec.toNat_append]
  rw [← Nat.shiftLeft_add_eq_or_of_lt h4, ← Nat.shiftLeft_add_eq_or_of_lt h3, ← Nat.shiftLeft_add_eq_or_of_lt h2,
    ← Nat.shiftLeft_add_eq_or_of_lt h1, ← Nat.shiftLeft_add_eq_or_of_lt h0]
  simp only [Nat.shiftLeft_eq]
  omega

/-- A field of a word is a slice of its number. -/
theorem extract_toNat {w : Nat} (x : BitVec w) (lo len : Nat) :
    (x.extractLsb' lo len).toNat = x.toNat / 2 ^ lo % 2 ^ len := by
  simp [BitVec.extractLsb'_toNat, Nat.shiftRight_eq_div_pow]

section
variable (op n : Nibble) (a : Addr) (p2 p1 p0 : Byte)

@[simp] theorem fieldOp_pack : fieldOp (packRequest op n a p2 p1 p0) = op := by
  apply BitVec.eq_of_toNat_eq
  have := p0.isLt; have := p1.isLt; have := p2.isLt; have := a.isLt; have := n.isLt; have := op.isLt
  simp only [fieldOp, extract_toNat, packRequest_toNat]
  omega
@[simp] theorem fieldN_pack : fieldN (packRequest op n a p2 p1 p0) = n := by
  apply BitVec.eq_of_toNat_eq
  have := p0.isLt; have := p1.isLt; have := p2.isLt; have := a.isLt; have := n.isLt; have := op.isLt
  simp only [fieldN, extract_toNat, packRequest_toNat]
  omega
@[simp] theorem fieldA_pack : fieldA (packRequest op n a p2 p1 p0) = a := by
  apply BitVec.eq_of_toNat_eq
  have := p0.isLt; have := p1.isLt; have := p2.isLt; have := a.isLt; have := n.isLt; have := op.isLt
  simp only [fieldA, extract_toNat, packRequest_toNat]
  omega
@[simp] theorem fieldP2_pack : fieldP2 (packRequest op n a p2 p1 p0) = p2 := by
  apply BitVec.eq_of_toNat_eq
  have := p0.isLt; have := p1.isLt; have := p2.isLt; have := a.isLt; have := n.isLt; have := op.isLt
  simp only [fieldP2, extract_toNat, packRequest_toNat]
  omega
@[simp] theorem fieldP1_pack : fieldP1 (packRequest op n a p2 p1 p0) = p1 := by
  apply BitVec.eq_of_toNat_eq
  have := p0.isLt; have := p1.isLt; have := p2.isLt; have := a.isLt; have := n.isLt; have := op.isLt
  simp only [fieldP1, extract_toNat, packRequest_toNat]
  omega
@[simp] theorem fieldP0_pack : fieldP0 (packRequest op n a p2 p1 p0) = p0 := by
  apply BitVec.eq_of_toNat_eq
  have := p0.isLt; have := p1.isLt; have := p2.isLt; have := a.isLt; have := n.isLt; have := op.isLt
  simp only [fieldP0, extract_toNat, packRequest_toNat]
  omega
end

/-- A request word is its fields packed. -/
theorem pack_fields (w : RequestWord) :
    packRequest (fieldOp w) (fieldN w) (fieldA w) (fieldP2 w) (fieldP1 w) (fieldP0 w) = w := by
  apply BitVec.eq_of_toNat_eq
  have := w.isLt
  simp only [packRequest_toNat, fieldOp, fieldN, fieldA, fieldP2, fieldP1, fieldP0, extract_toNat]
  omega

/-- CHECK_DATA's address field: eight zeros above the checksum. -/
@[simp] theorem checksumField_hi (c : Byte) : (0#8 ++ c : BitVec 16).extractLsb' 8 8 = 0 := by revert c; decide
@[simp] theorem checksumField_lo (c : Byte) : (0#8 ++ c : BitVec 16).extractLsb' 0 8 = c := by revert c; decide
theorem checksumField_join (a : Addr) (h : a.extractLsb' 8 8 = 0) : (0#8 ++ a.extractLsb' 0 8 : BitVec 16) = a := by
  have ha := a.isLt
  have h' := congrArg BitVec.toNat h
  have hl := (a.extractLsb' 0 8).isLt
  apply BitVec.eq_of_toNat_eq
  rw [BitVec.toNat_append, ← Nat.shiftLeft_add_eq_or_of_lt hl]
  simp only [extract_toNat] at h' ⊢
  simp at h' ⊢
  omega

/-- DECODE_WIND_DIRECTION's N field: two zeros above its open bits. -/
@[simp] theorem windField_hi (n : BitVec 2) : (0#2 ++ n : BitVec 4).extractLsb' 2 2 = 0 := by revert n; decide
@[simp] theorem windField_lo (n : BitVec 2) : (0#2 ++ n : BitVec 4).extractLsb' 0 2 = n := by revert n; decide
theorem windField_join (n : Nibble) (h : n.extractLsb' 2 2 = 0) : (0#2 ++ n.extractLsb' 0 2 : BitVec 4) = n := by
  revert n; decide

/-! ### Wire bytes -/

theorem addrNibbleByte_toNat (n : Nibble) : (addrNibbleByte n).toNat = 0x82 + 4 * n.toNat := by
  revert n; decide
theorem lenByte_toNat (w : Nibble) : (lenByte w).toNat = 0xC2 + 4 * w.toNat := by
  revert w; decide
theorem echoAddrByte_toNat (s : BitVec 2) (n : Nibble) : (echoAddrByte s n).toNat = 16 * s.toNat + n.toNat := by
  revert s n; decide
theorem echoLenByte_toNat (w : Nibble) : (echoLenByte w).toNat = 0x30 + w.toNat := by
  revert w; decide

theorem isAddrNibble_iff (b : Byte) : isAddrNibble b = true ↔ addrNibbleByte (midNibble b) = b := by
  revert b; decide
theorem isLen_iff (b : Byte) : isLen b = true ↔ lenByte (midNibble b) = b := by
  revert b; decide
@[simp] theorem isAddrNibble_addrNibbleByte (n : Nibble) : isAddrNibble (addrNibbleByte n) = true := by
  revert n; decide
@[simp] theorem isLen_lenByte (w : Nibble) : isLen (lenByte w) = true := by
  revert w; decide
@[simp] theorem midNibble_addrNibbleByte (n : Nibble) : midNibble (addrNibbleByte n) = n := by
  revert n; decide
@[simp] theorem midNibble_lenByte (w : Nibble) : midNibble (lenByte w) = w := by
  revert w; decide

/-- The bytes of a general command are never the reset byte (rule R99). -/
theorem addrNibbleByte_ne_reset (n : Nibble) : addrNibbleByte n ≠ 0x06 := by revert n; decide
theorem lenByte_ne_reset (w : Nibble) : lenByte w ≠ 0x06 := by revert w; decide

theorem echoAddr_form (b : Byte) (h : b.extractLsb' 6 2 = 0) : echoAddrByte (b.extractLsb' 4 2) (lo b) = b := by
  revert b; decide
theorem echoLen_form (b : Byte) (h : hi b = 3) : echoLenByte (lo b) = b := by
  revert b; decide

/-- What a byte decoded as a symbol is encoded as: itself, at every position. -/
theorem encode_of_decodeSymbol {p : Position} {b : Byte} {i : Instr} (h : decodeSymbol p b = .ok i) :
    encode i = .symbol b := by
  cases p with
  | request => cases h
  | resetSlot =>
    simp only [decodeSymbol] at h
    split at h <;> simp_all [encode]
    subst h; rfl
  | pollSlot =>
    simp only [decodeSymbol, decodePoll, Except.ok.injEq] at h
    subst h
    split
    · simp_all [encode]
    · split <;> simp_all [encode]
  | commandSlot q =>
    simp only [decodeSymbol, decodeCommandByte] at h
    split at h
    · cases h; simp_all [encode, isAddrNibble_iff]
    · split at h
      · cases h; simp_all [encode]
      · split at h
        · cases h; simp_all [encode, isLen_iff]
        · cases h
  | echoSlot q =>
    simp only [decodeSymbol, decodeEchoByte] at h
    split at h
    · rename_i hq; cases h; simp [encode, echoAddr_form b hq.2]
    · split at h
      · rename_i hq; cases h; simp [encode, echoLen_form b hq.2]
      · cases h
  | dataSlot => cases h; rfl
  | checksumSlot => cases h; rfl

end Sys2Proof
end

