-- ==== Sys2Proof/Laws/State.lean ====
section
/-! SUPPORT. One lemma for each field of State and each update of it, so that no later proof unfolds a record update. -/

namespace Sys2Proof.Machine

/-! Trace events touch the trace alone (rule R222). -/

@[simp] theorem State.emit_st (s : State) (e : TraceEvent) :
    (s.emit e).st = s.st := by unfold State.emit; split <;> rfl
@[simp] theorem State.emit_regs (s : State) (e : TraceEvent) :
    (s.emit e).regs = s.regs := by unfold State.emit; split <;> rfl
@[simp] theorem State.emit_traceEn (s : State) (e : TraceEvent) :
    (s.emit e).traceEn = s.traceEn := by unfold State.emit; split <;> rfl
@[simp] theorem State.emit_resetIn (s : State) (e : TraceEvent) :
    (s.emit e).resetIn = s.resetIn := by unfold State.emit; split <;> rfl
@[simp] theorem State.emit_ch (s : State) (e : TraceEvent) :
    (s.emit e).ch = s.ch := by unfold State.emit; split <;> rfl
@[simp] theorem State.emit_requests (s : State) (e : TraceEvent) :
    (s.emit e).requests = s.requests := by unfold State.emit; split <;> rfl
@[simp] theorem State.emit_responses (s : State) (e : TraceEvent) :
    (s.emit e).responses = s.responses := by unfold State.emit; split <;> rfl
@[simp] theorem State.emit_trace (s : State) (e : TraceEvent) :
    (s.emit e).trace = if s.traceEn then e :: s.trace else s.trace := by unfold State.emit; split <;> rfl
@[simp] theorem State.emit_params (s : State) (e : TraceEvent) :
    (s.emit e).params = s.params := by unfold State.emit; split <;> rfl
@[simp] theorem State.emit_draws (s : State) (e : TraceEvent) :
    (s.emit e).draws = s.draws := by unfold State.emit; split <;> rfl

/-! The registers replaced, and nothing else. -/

@[simp] theorem State.setRegs_st (s : State) (r : Regs) : (s.setRegs r).st = s.st := rfl
@[simp] theorem State.setRegs_regs (s : State) (r : Regs) : (s.setRegs r).regs = r := rfl
@[simp] theorem State.setRegs_traceEn (s : State) (r : Regs) : (s.setRegs r).traceEn = s.traceEn := rfl
@[simp] theorem State.setRegs_resetIn (s : State) (r : Regs) : (s.setRegs r).resetIn = s.resetIn := rfl
@[simp] theorem State.setRegs_ch (s : State) (r : Regs) : (s.setRegs r).ch = s.ch := rfl
@[simp] theorem State.setRegs_requests (s : State) (r : Regs) : (s.setRegs r).requests = s.requests := rfl
@[simp] theorem State.setRegs_responses (s : State) (r : Regs) : (s.setRegs r).responses = s.responses := rfl
@[simp] theorem State.setRegs_trace (s : State) (r : Regs) : (s.setRegs r).trace = s.trace := rfl
@[simp] theorem State.setRegs_params (s : State) (r : Regs) : (s.setRegs r).params = s.params := rfl
@[simp] theorem State.setRegs_draws (s : State) (r : Regs) : (s.setRegs r).draws = s.draws := rfl

/-! `st <- S` touches the sequencer state alone. -/

@[simp] theorem State.goto_st (s : State) (q : SeqState) : (s.goto q).st = q := rfl
@[simp] theorem State.goto_regs (s : State) (q : SeqState) : (s.goto q).regs = s.regs := rfl
@[simp] theorem State.goto_traceEn (s : State) (q : SeqState) : (s.goto q).traceEn = s.traceEn := rfl
@[simp] theorem State.goto_resetIn (s : State) (q : SeqState) : (s.goto q).resetIn = s.resetIn := rfl
@[simp] theorem State.goto_ch (s : State) (q : SeqState) : (s.goto q).ch = s.ch := rfl
@[simp] theorem State.goto_requests (s : State) (q : SeqState) : (s.goto q).requests = s.requests := rfl
@[simp] theorem State.goto_responses (s : State) (q : SeqState) : (s.goto q).responses = s.responses := rfl
@[simp] theorem State.goto_trace (s : State) (q : SeqState) : (s.goto q).trace = s.trace := rfl
@[simp] theorem State.goto_params (s : State) (q : SeqState) : (s.goto q).params = s.params := rfl
@[simp] theorem State.goto_draws (s : State) (q : SeqState) : (s.goto q).draws = s.draws := rfl

/-! A flush touches the channel, and a free value is drawn if it fails. -/

@[simp] theorem State.flushed_st (s : State) (r : IoResult) (rest : List IoResult) :
    (s.flushed r rest).st = s.st := by cases r <;> rfl
@[simp] theorem State.flushed_regs (s : State) (r : IoResult) (rest : List IoResult) :
    (s.flushed r rest).regs = s.regs := by cases r <;> rfl
@[simp] theorem State.flushed_traceEn (s : State) (r : IoResult) (rest : List IoResult) :
    (s.flushed r rest).traceEn = s.traceEn := by cases r <;> rfl
@[simp] theorem State.flushed_resetIn (s : State) (r : IoResult) (rest : List IoResult) :
    (s.flushed r rest).resetIn = s.resetIn := by cases r <;> rfl
@[simp] theorem State.flushed_requests (s : State) (r : IoResult) (rest : List IoResult) :
    (s.flushed r rest).requests = s.requests := by cases r <;> rfl
@[simp] theorem State.flushed_responses (s : State) (r : IoResult) (rest : List IoResult) :
    (s.flushed r rest).responses = s.responses := by cases r <;> rfl
@[simp] theorem State.flushed_trace (s : State) (r : IoResult) (rest : List IoResult) :
    (s.flushed r rest).trace = s.trace := by cases r <;> rfl
@[simp] theorem State.flushed_params (s : State) (r : IoResult) (rest : List IoResult) :
    (s.flushed r rest).params = s.params := by cases r <;> rfl

theorem State.flushed_ok_ch (s : State) (rest : List IoResult) :
    (s.flushed .ok rest).ch = { s.ch with flushes := rest, rxBuf := [], log := .flush .ok :: s.ch.log } := rfl
theorem State.flushed_ok_draws (s : State) (rest : List IoResult) : (s.flushed .ok rest).draws = s.draws := rfl
@[simp] theorem State.flushed_isOpen (s : State) (r : IoResult) (rest : List IoResult) :
    (s.flushed r rest).ch.isOpen = s.ch.isOpen := by cases r <;> rfl
@[simp] theorem State.flushed_flushes (s : State) (r : IoResult) (rest : List IoResult) :
    (s.flushed r rest).ch.flushes = rest := by cases r <;> rfl
@[simp] theorem State.flushed_writes (s : State) (r : IoResult) (rest : List IoResult) :
    (s.flushed r rest).ch.writes = s.ch.writes := by cases r <;> rfl
@[simp] theorem State.flushed_reads (s : State) (r : IoResult) (rest : List IoResult) :
    (s.flushed r rest).ch.reads = s.ch.reads := by cases r <;> rfl
@[simp] theorem State.flushed_log (s : State) (r : IoResult) (rest : List IoResult) :
    (s.flushed r rest).ch.log = .flush r :: s.ch.log := by cases r <;> rfl

/-! A write touches the channel alone. -/

@[simp] theorem State.written_st (s : State) (b : Byte) (r : IoResult) (rest : List IoResult) :
    (s.written b r rest).st = s.st := rfl
@[simp] theorem State.written_regs (s : State) (b : Byte) (r : IoResult) (rest : List IoResult) :
    (s.written b r rest).regs = s.regs := rfl
@[simp] theorem State.written_traceEn (s : State) (b : Byte) (r : IoResult) (rest : List IoResult) :
    (s.written b r rest).traceEn = s.traceEn := rfl
@[simp] theorem State.written_resetIn (s : State) (b : Byte) (r : IoResult) (rest : List IoResult) :
    (s.written b r rest).resetIn = s.resetIn := rfl
@[simp] theorem State.written_ch (s : State) (b : Byte) (r : IoResult) (rest : List IoResult) :
    (s.written b r rest).ch = { s.ch with writes := rest, log := .write b r :: s.ch.log } := rfl
@[simp] theorem State.written_requests (s : State) (b : Byte) (r : IoResult) (rest : List IoResult) :
    (s.written b r rest).requests = s.requests := rfl
@[simp] theorem State.written_responses (s : State) (b : Byte) (r : IoResult) (rest : List IoResult) :
    (s.written b r rest).responses = s.responses := rfl
@[simp] theorem State.written_trace (s : State) (b : Byte) (r : IoResult) (rest : List IoResult) :
    (s.written b r rest).trace = s.trace := rfl
@[simp] theorem State.written_params (s : State) (b : Byte) (r : IoResult) (rest : List IoResult) :
    (s.written b r rest).params = s.params := rfl
@[simp] theorem State.written_draws (s : State) (b : Byte) (r : IoResult) (rest : List IoResult) :
    (s.written b r rest).draws = s.draws := rfl

/-! A read touches the channel alone. -/

@[simp] theorem State.readAt_st (s : State) (e : RdEvent) (rest : List RdEvent) : (s.readAt e rest).st = s.st := rfl
@[simp] theorem State.readAt_regs (s : State) (e : RdEvent) (rest : List RdEvent) :
    (s.readAt e rest).regs = s.regs := rfl
@[simp] theorem State.readAt_traceEn (s : State) (e : RdEvent) (rest : List RdEvent) :
    (s.readAt e rest).traceEn = s.traceEn := rfl
@[simp] theorem State.readAt_resetIn (s : State) (e : RdEvent) (rest : List RdEvent) :
    (s.readAt e rest).resetIn = s.resetIn := rfl
@[simp] theorem State.readAt_ch (s : State) (e : RdEvent) (rest : List RdEvent) :
    (s.readAt e rest).ch = { s.ch with
      reads := rest, rxBuf := (readFrom s.ch.rxBuf e).2, log := .read (readFrom s.ch.rxBuf e).1 :: s.ch.log } := rfl
@[simp] theorem State.readAt_requests (s : State) (e : RdEvent) (rest : List RdEvent) :
    (s.readAt e rest).requests = s.requests := rfl
@[simp] theorem State.readAt_responses (s : State) (e : RdEvent) (rest : List RdEvent) :
    (s.readAt e rest).responses = s.responses := rfl
@[simp] theorem State.readAt_trace (s : State) (e : RdEvent) (rest : List RdEvent) :
    (s.readAt e rest).trace = s.trace := rfl
@[simp] theorem State.readAt_params (s : State) (e : RdEvent) (rest : List RdEvent) :
    (s.readAt e rest).params = s.params := rfl
@[simp] theorem State.readAt_draws (s : State) (e : RdEvent) (rest : List RdEvent) :
    (s.readAt e rest).draws = s.draws := rfl

/-! A wait is noted in the transcript alone. -/

@[simp] theorem State.waited_st (s : State) (ms : Nat) : (s.waited ms).st = s.st := rfl
@[simp] theorem State.waited_regs (s : State) (ms : Nat) : (s.waited ms).regs = s.regs := rfl
@[simp] theorem State.waited_traceEn (s : State) (ms : Nat) : (s.waited ms).traceEn = s.traceEn := rfl
@[simp] theorem State.waited_resetIn (s : State) (ms : Nat) : (s.waited ms).resetIn = s.resetIn := rfl
@[simp] theorem State.waited_ch (s : State) (ms : Nat) :
    (s.waited ms).ch = { s.ch with log := .wait ms :: s.ch.log } := rfl
@[simp] theorem State.waited_requests (s : State) (ms : Nat) : (s.waited ms).requests = s.requests := rfl
@[simp] theorem State.waited_responses (s : State) (ms : Nat) : (s.waited ms).responses = s.responses := rfl
@[simp] theorem State.waited_trace (s : State) (ms : Nat) : (s.waited ms).trace = s.trace := rfl
@[simp] theorem State.waited_params (s : State) (ms : Nat) : (s.waited ms).params = s.params := rfl
@[simp] theorem State.waited_draws (s : State) (ms : Nat) : (s.waited ms).draws = s.draws := rfl

/-! An unread byte goes into the receive buffer alone. -/

@[simp] theorem State.buffered_st (s : State) (v : Byte) : (s.buffered v).st = s.st := rfl
@[simp] theorem State.buffered_regs (s : State) (v : Byte) : (s.buffered v).regs = s.regs := rfl
@[simp] theorem State.buffered_traceEn (s : State) (v : Byte) : (s.buffered v).traceEn = s.traceEn := rfl
@[simp] theorem State.buffered_resetIn (s : State) (v : Byte) : (s.buffered v).resetIn = s.resetIn := rfl
@[simp] theorem State.buffered_ch (s : State) (v : Byte) :
    (s.buffered v).ch = { s.ch with rxBuf := s.ch.rxBuf ++ [v] } := rfl
@[simp] theorem State.buffered_requests (s : State) (v : Byte) : (s.buffered v).requests = s.requests := rfl
@[simp] theorem State.buffered_responses (s : State) (v : Byte) : (s.buffered v).responses = s.responses := rfl
@[simp] theorem State.buffered_trace (s : State) (v : Byte) : (s.buffered v).trace = s.trace := rfl
@[simp] theorem State.buffered_params (s : State) (v : Byte) : (s.buffered v).params = s.params := rfl
@[simp] theorem State.buffered_draws (s : State) (v : Byte) : (s.buffered v).draws = s.draws := rfl

/-! A delivery adds a response and its trace event. -/

@[simp] theorem State.deliver_st (s : State) (r : Resp) : (s.deliver r).st = s.st := by simp [State.deliver]
@[simp] theorem State.deliver_regs (s : State) (r : Resp) : (s.deliver r).regs = s.regs := by simp [State.deliver]
@[simp] theorem State.deliver_traceEn (s : State) (r : Resp) :
    (s.deliver r).traceEn = s.traceEn := by simp [State.deliver]
@[simp] theorem State.deliver_resetIn (s : State) (r : Resp) :
    (s.deliver r).resetIn = s.resetIn := by simp [State.deliver]
@[simp] theorem State.deliver_ch (s : State) (r : Resp) : (s.deliver r).ch = s.ch := by simp [State.deliver]
@[simp] theorem State.deliver_requests (s : State) (r : Resp) :
    (s.deliver r).requests = s.requests := by simp [State.deliver]
@[simp] theorem State.deliver_responses (s : State) (r : Resp) :
    (s.deliver r).responses = r :: s.responses := by simp [State.deliver]
@[simp] theorem State.deliver_trace (s : State) (r : Resp) :
    (s.deliver r).trace = if s.traceEn then .result r.status r.fails :: s.trace else s.trace :=
  by simp [State.deliver]
@[simp] theorem State.deliver_params (s : State) (r : Resp) :
    (s.deliver r).params = s.params := by simp [State.deliver]
@[simp] theorem State.deliver_draws (s : State) (r : Resp) : (s.deliver r).draws = s.draws := by simp [State.deliver]

/-! `respond` delivers, and clears the sequencer. -/

@[simp] theorem State.respond_st (s : State) (r : Resp) : (s.respond r).st = .idle := by simp [State.respond]
@[simp] theorem State.respond_regs (s : State) (r : Resp) :
    (s.respond r).regs = Regs.unwritten := by simp [State.respond]
@[simp] theorem State.respond_traceEn (s : State) (r : Resp) :
    (s.respond r).traceEn = s.traceEn := by simp [State.respond]
@[simp] theorem State.respond_resetIn (s : State) (r : Resp) :
    (s.respond r).resetIn = s.resetIn := by simp [State.respond]
@[simp] theorem State.respond_ch (s : State) (r : Resp) : (s.respond r).ch = s.ch := by simp [State.respond]
@[simp] theorem State.respond_requests (s : State) (r : Resp) :
    (s.respond r).requests = s.requests := by simp [State.respond]
@[simp] theorem State.respond_responses (s : State) (r : Resp) :
    (s.respond r).responses = r :: s.responses := by simp [State.respond]
@[simp] theorem State.respond_trace (s : State) (r : Resp) :
    (s.respond r).trace = if s.traceEn then .result r.status r.fails :: s.trace else s.trace :=
  by simp [State.respond]
@[simp] theorem State.respond_params (s : State) (r : Resp) :
    (s.respond r).params = s.params := by simp [State.respond]
@[simp] theorem State.respond_draws (s : State) (r : Resp) : (s.respond r).draws = s.draws := by simp [State.respond]

/-! `raise` writes LAST_ERR and `st`, and adds its trace event (rule R209). -/

@[simp] theorem State.raise_st (s : State) (e : LocalError) : (s.raise e).st = .attFail := by simp [State.raise]
@[simp] theorem State.raise_regs (s : State) (e : LocalError) :
    (s.raise e).regs = { s.regs with lastErr := some e.kind } := by simp [State.raise]
@[simp] theorem State.raise_traceEn (s : State) (e : LocalError) :
    (s.raise e).traceEn = s.traceEn := by simp [State.raise]
@[simp] theorem State.raise_resetIn (s : State) (e : LocalError) :
    (s.raise e).resetIn = s.resetIn := by simp [State.raise]
@[simp] theorem State.raise_ch (s : State) (e : LocalError) : (s.raise e).ch = s.ch := by simp [State.raise]
@[simp] theorem State.raise_requests (s : State) (e : LocalError) :
    (s.raise e).requests = s.requests := by simp [State.raise]
@[simp] theorem State.raise_responses (s : State) (e : LocalError) :
    (s.raise e).responses = s.responses := by simp [State.raise]
@[simp] theorem State.raise_trace (s : State) (e : LocalError) :
    (s.raise e).trace = if s.traceEn then .error e s.st :: s.trace else s.trace := by
  rw [State.raise, State.goto_trace, State.emit_trace]; rfl
@[simp] theorem State.raise_params (s : State) (e : LocalError) :
    (s.raise e).params = s.params := by simp [State.raise]
@[simp] theorem State.raise_draws (s : State) (e : LocalError) : (s.raise e).draws = s.draws := by simp [State.raise]

/-! A block reset (rules R240 to R242). -/

@[simp] theorem State.takeReset_st (s : State) : (s.takeReset).st = .idle := rfl
@[simp] theorem State.takeReset_regs (s : State) : (s.takeReset).regs = Regs.unwritten := rfl
@[simp] theorem State.takeReset_traceEn (s : State) : (s.takeReset).traceEn = s.traceEn := rfl
@[simp] theorem State.takeReset_resetIn (s : State) : (s.takeReset).resetIn = false := rfl
@[simp] theorem State.takeReset_ch (s : State) :
    (s.takeReset).ch = { s.ch with rxBuf := Config.receiveBufferAfter s.draws } := rfl
@[simp] theorem State.takeReset_requests (s : State) : (s.takeReset).requests = s.requests := rfl
@[simp] theorem State.takeReset_responses (s : State) : (s.takeReset).responses = s.responses := rfl
@[simp] theorem State.takeReset_trace (s : State) : (s.takeReset).trace = s.trace := rfl
@[simp] theorem State.takeReset_params (s : State) : (s.takeReset).params = s.params := rfl
@[simp] theorem State.takeReset_draws (s : State) : (s.takeReset).draws = s.draws + 1 := rfl

end Sys2Proof.Machine
end

