-- ==== Sys2Proof/Laws/Ops.lean ====
section
/-! SUPPORT. What each shared operation can do: one lemma for each, for an operation that answers a next state. -/

namespace Sys2Proof.Machine

/-- A register read goes on with the register's value. -/
theorem need_next {α : Type} {r : RegName} {o : Option α} {k : α → Result} {t : State} :
    need r o k = .next t ↔ ∃ v, o = some v ∧ k v = .next t := by
  cases o <;> simp [need]

@[simp] theorem need_some {α : Type} (r : RegName) (v : α) (k : α → Result) : need r (some v) k = k v := rfl

/-- ChFlush answers a next state only if it has not returned, or through its continuation. -/
theorem chFlush_next {s t : State} {k : IoResult → State → Result} :
    chFlush s k = .next t ↔ s.ch.isOpen = true ∧
      ((s.ch.flushes = [] ∧ s = t) ∨ ∃ r rest, s.ch.flushes = r :: rest ∧ k r (s.flushed r rest) = .next t) := by
  unfold chFlush
  cases s.ch.isOpen <;> cases s.ch.flushes <;> simp

theorem chWrite_next {b : Byte} {s t : State} {k : IoResult → State → Result} :
    chWrite b s k = .next t ↔ s.ch.isOpen = true ∧
      ((s.ch.writes = [] ∧ s = t) ∨ ∃ r rest, s.ch.writes = r :: rest ∧ k r (s.written b r rest) = .next t) := by
  unfold chWrite
  cases s.ch.isOpen <;> cases s.ch.writes <;> simp

theorem chRead_next {s t : State} {k : RdResult → State → Result} :
    chRead s k = .next t ↔ s.ch.isOpen = true ∧
      ((s.ch.reads = [] ∧ s = t) ∨
        ∃ e rest, s.ch.reads = e :: rest ∧ k (readFrom s.ch.rxBuf e).1 (s.readAt e rest) = .next t) := by
  unfold chRead
  cases s.ch.isOpen <;> cases s.ch.reads <;> simp

/-- A host operation that answers a next state was in IDLE, and was refused or ran. -/
theorem hostOp_next {legal : Bool} {s t : State} {k : Result} :
    hostOp legal s k = .next t ↔
      s.st = .idle ∧ ((legal = true ∧ k = .next t) ∨ (legal = false ∧ s.deliver refusal = t)) := by
  unfold hostOp
  by_cases h : s.st = .idle <;> cases legal <;> simp [h]

/-- READ's widths (rule R82). -/
theorem legalRead_iff {n : Nibble} : legalRead n = true ↔ 1 ≤ n.toNat ∧ n.toNat ≤ 3 := decide_eq_true_iff

/-- What a read returns is the oldest byte of the buffer with the arrivals behind it. -/
theorem readFrom_arrived (buf bs : List Byte) (v : Byte) (more : List Byte) (h : buf ++ bs = v :: more) :
    readFrom buf (.arrived bs) = (.byte v, more) := by
  simp [readFrom, h]

/-- The rounding under TIE_POLICY leaves everything but the counter of free values alone. -/
theorem roundTenths_state (v : Int) (s : State) : ∃ n, (roundTenths v s).2 = { s with draws := n } := by
  unfold roundTenths
  split
  · exact ⟨s.draws, rfl⟩
  · split
    · exact ⟨s.draws + 1, rfl⟩
    · exact ⟨s.draws, rfl⟩

/-- Under the default policy the rounding is RT (rule R172). -/
theorem roundTenths_exact {v : Int} {s : State} (h : s.params.tiePolicy = .exact) : roundTenths v s = (rt v, s) := by
  simp [roundTenths, h]

/-! ### Codes by formula and by bit form -/

theorem addrCode_eq (n : Nibble) : addrCode n = addrNibbleByte n := by revert n; decide
theorem lenCode_eq (w : Nibble) : lenCode w.toNat = lenByte w := by revert w; decide

/-- The cap: every width from 15 up has the same length byte (rules R88, R98). -/
theorem lenCode_cap {w : Nat} (h : 15 ≤ w) : lenCode w = lenByte 15 := by
  have : min (Config.lenCodeBase + 4 * w) Config.lenCodeCap = 0xFE := by
    simp only [Config.lenCodeBase, Config.lenCodeCap]; omega
  simp only [lenCode, this]; decide

theorem encodeCmd_special (w : Nat) : encodeCmd Config.specialAddr w = [Config.resetByte] := by
  simp [encodeCmd]

theorem encodeCmd_general {a : Addr} (h : a ≠ Config.specialAddr) (w : Nat) :
    encodeCmd a w = [addrNibbleByte (addrNibbleAt a 0), addrNibbleByte (addrNibbleAt a 1),
      addrNibbleByte (addrNibbleAt a 2), addrNibbleByte (addrNibbleAt a 3), lenCode w] := by
  simp [encodeCmd, h, addrCode_eq]

/-- A command has one byte or five (rule R95). -/
theorem encodeCmd_length (a : Addr) (w : Nat) :
    (encodeCmd a w).length = if a = Config.specialAddr then 1 else 5 := by
  unfold encodeCmd; split <;> simp

/-- A loaded command's entries are its bytes, and unwritten beyond them (rule R24). -/
theorem cmdAt_loadCmd {bytes : List Byte} {i : Nat} (h : i < 5) : (loadCmd bytes)[i]?.join = bytes[i]? := by
  have : i = 0 ∨ i = 1 ∨ i = 2 ∨ i = 3 ∨ i = 4 := by omega
  rcases this with rfl | rfl | rfl | rfl | rfl <;> simp [loadCmd]

/-! ### Expected echoes -/

/-- The echo of an address nibble repeats it behind its position (rules R91, R141). -/
theorem expectedEcho_addr (p : Config.Params) {q : Nat} (h : q < 4) (n : Nibble) :
    expectedEcho p q (addrNibbleByte n) = some (echoAddrByte (BitVec.ofNat 2 q) n) := by
  have : ∀ n : Nibble, addrNibbleByte n ≠ Config.resetByte := by decide
  simp only [expectedEcho, this, and_false, if_false]
  have hq : q = 0 ∨ q = 1 ∨ q = 2 ∨ q = 3 := by omega
  revert n
  rcases hq with rfl | rfl | rfl | rfl <;> decide

/-- The echo of a length byte (rule R91). -/
theorem expectedEcho_len (p : Config.Params) (w : Nibble) : expectedEcho p 4 (lenByte w) = some (echoLenByte w) := by
  simp only [expectedEcho, show ¬((4 : Nat) = 0 ∧ lenByte w = Config.resetByte) from by simp, if_false]
  revert w; decide

/-- The echo of the one-byte command is the parameter's (rule R134). -/
theorem expectedEcho_special (p : Config.Params) : expectedEcho p 0 Config.resetByte = p.specialEcho := by
  simp [expectedEcho]

/-! ### Data -/

/-- DATA[0..w-1] is readable if its entries are written. -/
theorem dataBytes_isSome {d : Vector (Option Byte) 3} {w : Nat} (hw : w ≤ 3)
    (h : ∀ i (hi : i < 3), i < w → (d[i]).isSome = true) : ∃ l, dataBytes d w = some l ∧ l.length = w := by
  induction w with
  | zero => exact ⟨[], rfl, rfl⟩
  | succ n ih =>
    obtain ⟨l, hl, hlen⟩ := ih (by omega) (fun i hi hn => h i hi (by omega))
    have hn := h n (by omega) (by omega)
    obtain ⟨b, hb⟩ := Option.isSome_iff_exists.mp hn
    refine ⟨l ++ [b], ?_, by simp [hlen]⟩
    simp [dataBytes, hl, Vector.getElem?_eq_getElem (show n < 3 by omega), hb]

end Sys2Proof.Machine
end

