-- ==== Sys2Proof/Laws/Step.lean ====
section
/-! SUPPORT. The step in each sequencer state, with the decoded symbol's meaning carried out: what later proofs use in
place of unfolding `step` and `exec`. -/

namespace Sys2Proof.Machine

/-- A byte decoded as a console-to-block symbol means what the byte does in the present state. -/
theorem exec_inbound {p : Position} {b : Byte} {i : Instr} (s : State)
    (hp : p ≠ .resetSlot ∧ ∀ q, p ≠ .commandSlot q) (h : decodeSymbol p b = .ok i) : exec i s = receiveByte b s := by
  have he := encode_of_decodeSymbol h
  cases p with
  | request => cases h
  | resetSlot => exact absurd rfl hp.1
  | commandSlot q => exact absurd rfl (hp.2 q)
  | pollSlot =>
    simp only [decodeSymbol, decodePoll, Except.ok.injEq] at h
    subst h
    split
    · rename_i hb; subst hb; rfl
    · split
      · rename_i hb; subst hb; rfl
      · rfl
  | echoSlot q =>
    simp only [decodeSymbol, decodeEchoByte] at h
    split at h
    · cases h; simp only [encode, Code.symbol.injEq] at he
      simp only [exec, execEchoAddr, he]
    · split at h
      · cases h; simp only [encode, Code.symbol.injEq] at he
        simp only [exec, execEchoLen, he]
      · cases h
  | dataSlot => cases h; rfl
  | checksumSlot => cases h; rfl

/-- A command byte decoded where it is due is sent by CMD_SEND. -/
theorem exec_outbound {q : Nat} {b : Byte} {i : Instr} {s : State} (hst : s.st = .cmdSend)
    (hdue : commandDue s = some (q, b)) (h : decodeSymbol (.commandSlot q) b = .ok i) : exec i s = cmdSend s := by
  have he := encode_of_decodeSymbol h
  simp only [commandDue, Option.bind_eq_some_iff, Option.map_eq_some_iff, Prod.mk.injEq] at hdue
  obtain ⟨q', hq, b', hb, rfl, rfl⟩ := hdue
  simp only [decodeSymbol, decodeCommandByte] at h
  split at h
  · rename_i hc; cases h; simp only [encode, Code.symbol.injEq] at he
    simp [exec, execAddrNibble, sendCommandSymbol, hst, hq, hb, he, hc.1]
  · split at h
    · rename_i hc; cases h; obtain ⟨rfl, rfl⟩ := hc
      simp [exec, execCmdSpecial, sendCommandSymbol, hst, hq, hb, Config.resetByte]
    · split at h
      · rename_i hc; cases h; obtain ⟨rfl, -⟩ := hc; simp only [encode, Code.symbol.injEq] at he
        simp [exec, execLen, sendCommandSymbol, hst, hq, hb, he]
      · cases h

section
variable {s : State} (hr : s.resetIn = false)
include hr

theorem step_idle (h : s.st = .idle) : step s = idleStep s := by simp [step, hr, h]
theorem step_attStart (h : s.st = .attStart) : step s = attStart s := by simp [step, hr, h]
theorem step_hsFlush (h : s.st = .hsFlush) : step s = hsFlush s := by simp [step, hr, h]
theorem step_hsBackoff (h : s.st = .hsBackoff) : step s = hsBackoff s := by simp [step, hr, h]
theorem step_attFail (h : s.st = .attFail) : step s = attFail s := by simp [step, hr, h]

theorem step_hsReset (h : s.st = .hsReset) : step s = hsReset s := by
  simp [step, hr, h, resetStep, decode, decodeSymbol, Config.resetByte, exec, execReset]

theorem step_cmdSend (h : s.st = .cmdSend) : step s = cmdSend s := by
  simp only [step, hr, h, commandStep, Bool.false_eq_true, if_false]
  split
  · rename_i q b hdue
    simp only [decode]
    split
    · rename_i i hi; exact exec_outbound h hdue hi
    · rfl
  · rfl

/-- HS_POLL: one read, judged by its outcome (rules R113, R214). -/
theorem step_hsPoll (h : s.st = .hsPoll) :
    step s = chRead s fun r t => match r with
      | .byte v => pollByte v t
      | r => pollNoByte r t := by
  simp only [step, hr, h, pollStep, Bool.false_eq_true, if_false]
  simp only [chRead]
  split
  · split
    · rfl
    · rename_i e rest _
      cases (readFrom s.ch.rxBuf e).1 with
      | timeout => rfl
      | ioerr => rfl
      | byte v =>
        simp only [decode]
        rw [show decodeSymbol .pollSlot v = .ok (decodePoll v) from rfl]
        simp only
        rw [exec_inbound (p := .pollSlot) _ (by simp) (rfl : decodeSymbol .pollSlot v = .ok (decodePoll v))]
        simp [receiveByte, h]
  · rfl

/-- CMD_ECHO: one read, and the byte compared whether or not it is an echo symbol (rules R137, R214). -/
theorem step_cmdEcho (h : s.st = .cmdEcho) :
    step s = chRead s fun r t => match r with
      | .byte v => echoByte v t
      | r => echoNoByte r t := by
  simp only [step, hr, h, echoStep, Bool.false_eq_true, if_false]
  simp only [chRead]
  split
  · split
    · rfl
    · rename_i e rest _
      cases (readFrom s.ch.rxBuf e).1 with
      | timeout => rfl
      | ioerr => rfl
      | byte v =>
        have hrec : receiveByte v (s.readAt e rest) = echoByte v (s.readAt e rest) := by simp [receiveByte, h]
        simp only
        split
        · rename_i q _
          simp only [decode]
          split
          · rename_i i hi
            rw [exec_inbound (p := .echoSlot q) _ (by simp) hi, hrec]
          · exact hrec
        · exact hrec
  · rfl

/-- DATA_READ: one read (rules R150, R214). -/
theorem step_dataRead (h : s.st = .dataRead) :
    step s = chRead s fun r t => match r with
      | .byte v => dataByte v t
      | r => dataNoByte r t := by
  simp only [step, hr, h, dataStep, Bool.false_eq_true, if_false]
  simp only [chRead]
  split
  · split
    · rfl
    · rename_i e rest _
      cases (readFrom s.ch.rxBuf e).1 with
      | timeout => rfl
      | ioerr => rfl
      | byte v => simp [decode, decodeSymbol, exec, execData, receiveByte, h]
  · rfl

/-- CHK_READ: one read (rules R151, R214). -/
theorem step_chkRead (h : s.st = .chkRead) :
    step s = chRead s fun r t => match r with
      | .byte v => chkByte v t
      | r => chkNoByte r t := by
  simp only [step, hr, h, checksumStep, Bool.false_eq_true, if_false]
  simp only [chRead]
  split
  · split
    · rfl
    · rename_i e rest _
      cases (readFrom s.ch.rxBuf e).1 with
      | timeout => rfl
      | ioerr => rfl
      | byte v => simp [decode, decodeSymbol, exec, execChksum, receiveByte, h]
  · rfl

end

end Sys2Proof.Machine
end

