-- ==== Sys2Proof/Laws/Sequencer.lean ====
section
/-! SUPPORT. Inversion: what each sequencer step did if it answered a next state. Whole-machine proofs go by cases on these
and never unfold a step. -/

namespace Sys2Proof.Machine

variable {s t : State}

theorem chkOk_iff {d : List Byte} {c : Byte} : chkOk d c = true ↔ checksum d = c := by simp [chkOk]

theorem echoOk_iff {p : Config.Params} {q : Nat} {c v : Byte} :
    echoOk p q c v = true ↔ expectedEcho p q c = some v := by simp [echoOk]

theorem attStart_next : attStart s = .next t ↔ ∃ a w, s.regs.reqAddr = some a ∧ s.regs.reqWidth = some w ∧
    ((s.setRegs (s.regs.startAttempt (encodeCmd a w.toNat))).emit (.attemptStart s.regs.att)).goto .hsFlush = t := by
  simp only [attStart, need_next, Host.Outcome.next.injEq]
  constructor
  · rintro ⟨a, ha, w, hw, h⟩; exact ⟨a, w, ha, hw, h⟩
  · rintro ⟨a, w, ha, hw, h⟩; exact ⟨a, ha, w, hw, h⟩

theorem hsFlush_next : hsFlush s = .next t ↔ s.ch.isOpen = true ∧
    ((s.ch.flushes = [] ∧ s = t) ∨
      (∃ rest, s.ch.flushes = .ok :: rest ∧
        ((s.flushed .ok rest).emit (.roundStart s.regs.att s.regs.rnd)).goto .hsReset = t) ∨
      ∃ rest, s.ch.flushes = .ioerr :: rest ∧
        ((s.flushed .ioerr rest).emit (.roundStart s.regs.att s.regs.rnd)).raise (.channelIo .handshakeFlush) = t) := by
  simp only [hsFlush, chFlush_next]
  constructor
  · rintro ⟨ho, h | ⟨r, rest, hf, h⟩⟩
    · exact ⟨ho, .inl h⟩
    · cases r <;> cases h
      · exact ⟨ho, .inr (.inl ⟨rest, hf, by simp⟩)⟩
      · exact ⟨ho, .inr (.inr ⟨rest, hf, by simp⟩)⟩
  · rintro ⟨ho, h | ⟨rest, hf, rfl⟩ | ⟨rest, hf, rfl⟩⟩
    · exact ⟨ho, .inl h⟩
    · exact ⟨ho, .inr ⟨_, _, hf, by simp⟩⟩
    · exact ⟨ho, .inr ⟨_, _, hf, by simp⟩⟩

theorem hsReset_next : hsReset s = .next t ↔ s.ch.isOpen = true ∧
    ((s.ch.writes = [] ∧ s = t) ∨
      (∃ rest u, s.ch.writes = .ok :: rest ∧ (s.written Config.resetByte .ok rest).emit (.tx Config.resetByte .ok) = u ∧
        (u.setRegs { s.regs with poll := some 0 }).goto .hsPoll = t) ∨
      ∃ rest, s.ch.writes = .ioerr :: rest ∧
        ((s.written Config.resetByte .ioerr rest).emit (.tx Config.resetByte .ioerr)).raise
          (.channelIo .handshakeWrite) = t) := by
  simp only [hsReset, chWrite_next]
  constructor
  · rintro ⟨ho, h | ⟨r, rest, hf, h⟩⟩
    · exact ⟨ho, .inl h⟩
    · cases r <;> cases h
      · exact ⟨ho, .inr (.inl ⟨rest, _, hf, rfl, rfl⟩)⟩
      · exact ⟨ho, .inr (.inr ⟨rest, hf, rfl⟩)⟩
  · rintro ⟨ho, h | ⟨rest, u, hf, rfl, rfl⟩ | ⟨rest, hf, rfl⟩⟩
    · exact ⟨ho, .inl h⟩
    · exact ⟨ho, .inr ⟨_, _, hf, rfl⟩⟩
    · exact ⟨ho, .inr ⟨_, _, hf, rfl⟩⟩

/-- HS_POLL counts its read and goes to CMD_SEND, stays, or goes to HS_BACKOFF. -/
theorem pollByte_next {v : Byte} : pollByte v s = .next t ↔ ∃ p u, s.regs.poll = some p ∧
    (s.setRegs { s.regs with poll := some (p + 1) }).emit (.rx (.byte v) s.st) = u ∧
    ((cls v = .ready ∧ (u.setRegs { u.regs with seq := some 0 }).goto .cmdSend = t) ∨
      (cls v = .busy ∧ p + 1 < 10 ∧ u.goto .hsPoll = t) ∨
      (((cls v = .busy ∧ 10 ≤ p + 1) ∨ cls v = .other) ∧ u.goto .hsBackoff = t)) := by
  simp only [pollByte, pollCounted, need_next]
  constructor
  · rintro ⟨p, hp, h⟩
    refine ⟨p, _, hp, rfl, ?_⟩
    split at h
    · cases h; exact .inl ⟨by assumption, rfl⟩
    · split at h
      · rename_i hc hlt; cases h; exact .inr (.inl ⟨hc, hlt, rfl⟩)
      · rename_i hc hlt; cases h; exact .inr (.inr ⟨.inl ⟨hc, Nat.le_of_not_lt hlt⟩, rfl⟩)
    · cases h; exact .inr (.inr ⟨.inr (by assumption), rfl⟩)
  · rintro ⟨p, u, hp, rfl, ⟨hc, rfl⟩ | ⟨hc, hlt, rfl⟩ | ⟨⟨hc, hlt⟩ | hc, rfl⟩⟩ <;> refine ⟨p, hp, ?_⟩
    · simp [hc]
    · simp [hc, Config.hsPolls, hlt]
    · simp only [hc, Config.hsPolls, Nat.not_lt.mpr hlt, if_false]
    · simp [hc]

theorem pollNoByte_next {r : RdResult} : pollNoByte r s = .next t ↔ ∃ p, s.regs.poll = some p ∧
    ((s.setRegs { s.regs with poll := some (p + 1) }).emit (.rx r s.st)).goto .hsBackoff = t := by
  simp only [pollNoByte, pollCounted, need_next, Host.Outcome.next.injEq]

theorem hsBackoff_next : hsBackoff s = .next t ↔ ∃ n u, s.regs.rnd = some n ∧
    (s.waited (Config.backoffUnit * (n + 1))).emit (.backoff n (Config.backoffUnit * (n + 1))) = u ∧
    ((n + 1 = Config.hsRounds ∧ (u.setRegs { s.regs with rnd := some (n + 1) }).raise (.handshakeFailed Config.hsRounds) = t) ∨
      (n + 1 ≠ Config.hsRounds ∧ (u.setRegs { s.regs with rnd := some (n + 1) }).goto .hsFlush = t)) := by
  simp only [hsBackoff, need_next]
  constructor
  · rintro ⟨n, hn, h⟩
    refine ⟨n, _, hn, rfl, ?_⟩
    split at h
    · rename_i hc; cases h; exact .inl ⟨hc, rfl⟩
    · rename_i hc; cases h; exact .inr ⟨hc, rfl⟩
  · rintro ⟨n, u, hn, rfl, ⟨hc, rfl⟩ | ⟨hc, rfl⟩⟩ <;> refine ⟨n, hn, ?_⟩
    · simp only [hc, if_true]
    · simp only [hc, if_false]

theorem cmdSend_next : cmdSend s = .next t ↔ ∃ q b, s.regs.seq = some q ∧ s.regs.cmdAt q = some b ∧
    s.ch.isOpen = true ∧
    ((s.ch.writes = [] ∧ s = t) ∨
      (∃ rest, s.ch.writes = .ok :: rest ∧ ((s.written b .ok rest).emit (.tx b .ok)).goto .cmdEcho = t) ∨
      ∃ rest, s.ch.writes = .ioerr :: rest ∧
        ((s.written b .ioerr rest).emit (.tx b .ioerr)).raise (.channelIo (.command q)) = t) := by
  simp only [cmdSend, need_next, chWrite_next]
  constructor
  · rintro ⟨q, hq, b, hb, ho, h | ⟨r, rest, hf, h⟩⟩ <;> refine ⟨q, b, hq, hb, ho, ?_⟩
    · exact .inl h
    · cases r <;> cases h
      · exact .inr (.inl ⟨rest, hf, rfl⟩)
      · exact .inr (.inr ⟨rest, hf, rfl⟩)
  · rintro ⟨q, b, hq, hb, ho, h | ⟨rest, hf, rfl⟩ | ⟨rest, hf, rfl⟩⟩ <;> refine ⟨q, hq, b, hb, ho, ?_⟩
    · exact .inl h
    · exact .inr ⟨_, _, hf, rfl⟩
    · exact .inr ⟨_, _, hf, rfl⟩

/-- CMD_ECHO advances on the expected byte (rule R138) and raises EchoMismatch on any other. -/
theorem echoByte_next {v : Byte} : echoByte v s = .next t ↔ ∃ q c u, s.regs.seq = some q ∧ s.regs.cmdAt q = some c ∧
    s.emit (.rx (.byte v) s.st) = u ∧
    ((expectedEcho s.params q c = some v ∧ ∃ len, s.regs.cmdLen = some len ∧
        ((q + 1 = len ∧ (u.setRegs { s.regs with seq := some (q + 1), k := some 0 }).goto .dataRead = t) ∨
          (q + 1 ≠ len ∧ (u.setRegs { s.regs with seq := some (q + 1) }).goto .cmdSend = t))) ∨
      (expectedEcho s.params q c ≠ some v ∧ u.raise (.echoMismatch q (expectedEcho s.params q c) v) = t)) := by
  simp only [echoByte, need_next, echoMatched]
  constructor
  · rintro ⟨q, hq, c, hc, h⟩
    refine ⟨q, c, _, hq, hc, rfl, ?_⟩
    split at h
    · rename_i he
      obtain ⟨len, hl, h⟩ := need_next.mp h
      refine .inl ⟨echoOk_iff.mp he, len, by simpa using hl, ?_⟩
      split at h
      · rename_i hn; cases h; exact .inl ⟨hn, by simp⟩
      · rename_i hn; cases h; exact .inr ⟨hn, by simp⟩
    · rename_i he; cases h; exact .inr ⟨fun hc => he (echoOk_iff.mpr hc), rfl⟩
  · rintro ⟨q, c, u, hq, hc, rfl, ⟨he, len, hl, ⟨hn, rfl⟩ | ⟨hn, rfl⟩⟩ | ⟨he, rfl⟩⟩ <;> refine ⟨q, hq, c, hc, ?_⟩
    · simp [echoOk_iff.mpr he, hl, hn]
    · simp [echoOk_iff.mpr he, hl, hn]
    · simp [mt echoOk_iff.mp he]

theorem echoNoByte_next {r : RdResult} : echoNoByte r s = .next t ↔ ∃ q, s.regs.seq = some q ∧
    (s.emit (.rx r s.st)).raise (.channelIo (.echo q)) = t := by
  simp only [echoNoByte, need_next, Host.Outcome.next.injEq]

theorem dataByte_next {v : Byte} : dataByte v s = .next t ↔ ∃ k w u, ∃ h : k < 3, s.regs.k = some k ∧
    s.regs.reqWidth = some w ∧ s.emit (.rx (.byte v) s.st) = u ∧
    (u.setRegs { s.regs with data := s.regs.data.set k (some v), k := some (k + 1) }).goto
      (if k + 1 = w.toNat then .chkRead else .dataRead) = t := by
  simp only [dataByte, need_next]
  constructor
  · rintro ⟨k, hk, w, hw, h⟩
    split at h
    · rename_i h3; cases h; exact ⟨k, w, _, h3, hk, hw, rfl, rfl⟩
    · cases h
  · rintro ⟨k, w, u, h3, hk, hw, rfl, rfl⟩
    exact ⟨k, hk, w, hw, by simp [h3]⟩

theorem dataNoByte_next {r : RdResult} : dataNoByte r s = .next t ↔ ∃ k, s.regs.k = some k ∧
    (s.emit (.rx r s.st)).raise (.channelIo (.data k)) = t := by
  simp only [dataNoByte, need_next, Host.Outcome.next.injEq]

/-- CHK_READ ends the READ with the data, or raises ChecksumMismatch (rules R151, R154). -/
theorem chkByte_next {c : Byte} : chkByte c s = .next t ↔ ∃ w d u, s.regs.reqWidth = some w ∧
    dataBytes s.regs.data w.toNat = some d ∧ s.emit (.rx (.byte c) s.st) = u ∧
    ((checksum d = c ∧ ∃ att, s.regs.att = some att ∧
        (u.setRegs { s.regs with chk := some c }).respond
          { status := .ok, fails := some att, n := some w.toNat, bytes := d } = t) ∨
      (checksum d ≠ c ∧ (u.setRegs { s.regs with chk := some c }).raise (.checksumMismatch (checksum d) c) = t)) := by
  simp only [chkByte, need_next]
  constructor
  · rintro ⟨w, hw, d, hd, h⟩
    refine ⟨w, d, _, hw, hd, rfl, ?_⟩
    split at h
    · rename_i he
      obtain ⟨att, ha, h⟩ := need_next.mp h
      cases h
      exact .inl ⟨chkOk_iff.mp he, att, ha, rfl⟩
    · rename_i he; cases h; exact .inr ⟨fun hc => he (chkOk_iff.mpr hc), rfl⟩
  · rintro ⟨w, d, u, hw, hd, rfl, ⟨he, att, ha, rfl⟩ | ⟨he, rfl⟩⟩ <;> refine ⟨w, hw, d, hd, ?_⟩
    · simp [chkOk_iff.mpr he, ha]
    · simp [mt chkOk_iff.mp he]

theorem attFail_next : attFail s = .next t ↔ ∃ n u, s.regs.att = some n ∧
    s.emit (.attemptFail s.regs.att s.regs.lastErr) = u ∧
    ((n + 1 = Config.readAttempts ∧ (u.setRegs { s.regs with att := some (n + 1) }).respond
        { status := .readExhausted, fails := some Config.readAttempts } = t) ∨
      (n + 1 ≠ Config.readAttempts ∧ (u.setRegs { s.regs with att := some (n + 1) }).goto .attStart = t)) := by
  simp only [attFail, need_next]
  constructor
  · rintro ⟨n, hn, h⟩
    refine ⟨n, _, by simpa using hn, rfl, ?_⟩
    split at h
    · rename_i hc; cases h; exact .inl ⟨hc, rfl⟩
    · rename_i hc; cases h; exact .inr ⟨hc, rfl⟩
  · rintro ⟨n, u, hn, rfl, ⟨hc, rfl⟩ | ⟨hc, rfl⟩⟩ <;> refine ⟨n, by simpa using hn, ?_⟩
    · simp only [hc, if_true]
    · simp only [hc, if_false]

/-- READ, if it answers: accepted, or refused. -/
theorem execRead_next {n : Nibble} {a : Addr} : execRead n a s = .next t ↔ s.st = .idle ∧
    ((legalRead n = true ∧ s.ch.isOpen = true ∧
        ((s.setRegs { s.regs with reqAddr := some a, reqWidth := some n, att := some 0 }).emit
          (.readStart a n)).goto .attStart = t) ∨
      (legalRead n = false ∧ s.deliver refusal = t)) := by
  simp only [execRead, hostOp_next]
  constructor
  · rintro ⟨hs, ⟨hl, h⟩ | h⟩
    · split at h
      · rename_i ho; cases h; exact ⟨hs, .inl ⟨hl, ho, rfl⟩⟩
      · cases h
    · exact ⟨hs, .inr h⟩
  · rintro ⟨hs, ⟨hl, ho, rfl⟩ | h⟩
    · exact ⟨hs, .inl ⟨hl, by simp [ho]⟩⟩
    · exact ⟨hs, .inr h⟩

/-- A pure host operation, if it answers: one response, and nothing else but the counter of free values. -/
theorem execPure_next {i : Instr} (hi : i.standsAt .request = true) (hr : ∀ n a, i ≠ .read n a)
    (h : exec i s = .next t) : s.st = .idle ∧ ∃ r d, State.deliver r { s with draws := d } = t := by
  have one : ∀ {legal r}, hostOp legal s (.next (s.deliver r)) = .next t →
      s.st = .idle ∧ ∃ r d, State.deliver r { s with draws := d } = t := by
    intro legal r h
    obtain ⟨hs, ⟨-, h⟩ | ⟨-, h⟩⟩ := hostOp_next.mp h
    · cases h; exact ⟨hs, r, s.draws, rfl⟩
    · exact ⟨hs, refusal, s.draws, h⟩
  have rounded : ∀ {e}, hostOp true s (.next (roundedAnswer e s)) = .next t →
      s.st = .idle ∧ ∃ r d, State.deliver r { s with draws := d } = t := by
    intro e h
    obtain ⟨hs, ⟨-, h⟩ | ⟨h, -⟩⟩ := hostOp_next.mp h
    · cases h
      obtain ⟨n, hn⟩ := roundTenths_state e s
      exact ⟨hs, _, n, by rw [roundedAnswer, hn]⟩
    · cases h
  cases i <;> simp [Instr.standsAt] at hi
  case read n a => exact absurd rfl (hr n a)
  case decodeTemperature => exact rounded h
  case decodePrecipitation => exact rounded h
  all_goals exact one h

/-- A request word decodes to a host operation. -/
theorem standsAt_of_decodeRequest {w : RequestWord} {i : Instr} (h : decodeRequest w = .ok i) :
    i.standsAt .request = true := by
  simp only [decodeRequest] at h
  split at h
  case h_12 => cases h
  all_goals split at h
  all_goals try cases h
  all_goals try rfl
  all_goals (split at h <;> cases h; rfl)

/-- IDLE, if it answers: waiting, a READ accepted, or one response. -/
theorem idleStep_next (h : idleStep s = .next t) :
    (s.requests = [] ∧ s = t) ∨
    ∃ w rest, s.requests = w :: rest ∧
      ((∃ n a, decodeRequest w = .ok (.read n a) ∧ legalRead n = true ∧ s.ch.isOpen = true ∧
          (({ s with requests := rest }.setRegs
            { s.regs with reqAddr := some a, reqWidth := some n, att := some 0 }).emit (.readStart a n)).goto
              .attStart = t) ∨
        ∃ r d, State.deliver r { s with requests := rest, draws := d } = t) := by
  unfold idleStep at h
  cases hq : s.requests with
  | nil => rw [hq] at h; cases h; exact .inl ⟨rfl, rfl⟩
  | cons w rest =>
    rw [hq] at h
    refine .inr ⟨w, rest, rfl, ?_⟩
    simp only [decode] at h
    split at h
    · rename_i i hd
      by_cases hr : ∀ n a, i ≠ .read n a
      · obtain ⟨-, r, d, h⟩ := execPure_next (standsAt_of_decodeRequest hd) hr h
        exact .inr ⟨r, d, h⟩
      · simp only [ne_eq, not_forall, not_not] at hr
        obtain ⟨n, a, rfl⟩ := hr
        obtain ⟨-, ⟨hl, ho, h⟩ | ⟨-, h⟩⟩ := execRead_next.mp h
        · exact .inl ⟨n, a, hd, hl, ho, h⟩
        · exact .inr ⟨refusal, s.draws, h⟩
    · cases h; exact .inr ⟨refusal, s.draws, rfl⟩

/-- What a reading state's step did, if it answered `t`: it is still waiting, or ran `kb` on the byte its read returned, or
`kn` on a read that returned none. -/
def ReadOutcome (kb : Byte → State → Result) (kn : RdResult → State → Result) (s t : State) : Prop :=
  s.ch.isOpen = true ∧ ((s.ch.reads = [] ∧ s = t) ∨ ∃ e rest, s.ch.reads = e :: rest ∧
    ((∃ v, (readFrom s.ch.rxBuf e).1 = .byte v ∧ kb v (s.readAt e rest) = .next t) ∨
      ((readFrom s.ch.rxBuf e).1 = .timeout ∧ kn .timeout (s.readAt e rest) = .next t) ∨
      ((readFrom s.ch.rxBuf e).1 = .ioerr ∧ kn .ioerr (s.readAt e rest) = .next t)))

theorem chRead_outcome {kb : Byte → State → Result} {kn : RdResult → State → Result}
    (h : (chRead s fun r u => match r with | .byte v => kb v u | r => kn r u) = .next t) : ReadOutcome kb kn s t := by
  obtain ⟨ho, h | ⟨e, rest, hr, h⟩⟩ := chRead_next.mp h <;> refine ⟨ho, ?_⟩
  · exact .inl h
  · refine .inr ⟨e, rest, hr, ?_⟩
    cases hf : (readFrom s.ch.rxBuf e).1 <;> simp_all

section
variable (hr : s.resetIn = false)
include hr

theorem step_hsPoll_next (hs : s.st = .hsPoll) (h : step s = .next t) : ReadOutcome pollByte pollNoByte s t :=
  chRead_outcome (by rwa [step_hsPoll hr hs] at h)

theorem step_cmdEcho_next (hs : s.st = .cmdEcho) (h : step s = .next t) : ReadOutcome echoByte echoNoByte s t :=
  chRead_outcome (by rwa [step_cmdEcho hr hs] at h)

theorem step_dataRead_next (hs : s.st = .dataRead) (h : step s = .next t) : ReadOutcome dataByte dataNoByte s t :=
  chRead_outcome (by rwa [step_dataRead hr hs] at h)

theorem step_chkRead_next (hs : s.st = .chkRead) (h : step s = .next t) : ReadOutcome chkByte chkNoByte s t :=
  chRead_outcome (by rwa [step_chkRead hr hs] at h)

end

end Sys2Proof.Machine
end

