-- ==== Sys2Proof/Laws/Transitions.lean ====
section
/-! SUPPORT. Everything one step can do, said once: a step that answers a next state makes one of these transitions. -/

namespace Sys2Proof.Machine

/-- The block waits: for a request, or for a channel operation that has not returned. -/
def State.Blocked (s : State) : Prop :=
  (s.st = .idle ∧ s.requests = []) ∨ (s.st = .hsFlush ∧ s.ch.flushes = []) ∨
    ((s.st = .hsReset ∨ s.st = .cmdSend) ∧ s.ch.writes = []) ∨
    ((s.st = .hsPoll ∨ s.st = .cmdEcho ∨ s.st = .dataRead ∨ s.st = .chkRead) ∧ s.ch.reads = [])

/-- The transitions of the machine from `s`. -/
inductive Transition (s : State) : State → Prop where
  | blockReset (h : s.resetIn = true) : Transition s s.takeReset
  | waiting (h : s.Blocked) : Transition s s
  | readStart {w rest n a} (h : s.st = .idle) (hq : s.requests = w :: rest) (hl : legalRead n = true)
      (ho : s.ch.isOpen = true) : Transition s
        ((({ s with requests := rest }.setRegs
          { s.regs with reqAddr := some a, reqWidth := some n, att := some 0 }).emit (.readStart a n)).goto .attStart)
  | answered {w rest r d} (h : s.st = .idle) (hq : s.requests = w :: rest) : Transition s
      (State.deliver r { s with requests := rest, draws := d })
  | attempt {a w} (h : s.st = .attStart) (ha : s.regs.reqAddr = some a) (hw : s.regs.reqWidth = some w) : Transition s
      (((s.setRegs (s.regs.startAttempt (encodeCmd a w.toNat))).emit (.attemptStart s.regs.att)).goto .hsFlush)
  | flushed {rest} (h : s.st = .hsFlush) (hf : s.ch.flushes = .ok :: rest) : Transition s
      (((s.flushed .ok rest).emit (.roundStart s.regs.att s.regs.rnd)).goto .hsReset)
  | flushFailed {rest} (h : s.st = .hsFlush) (hf : s.ch.flushes = .ioerr :: rest) : Transition s
      (((s.flushed .ioerr rest).emit (.roundStart s.regs.att s.regs.rnd)).raise (.channelIo .handshakeFlush))
  | resetSent {rest} (h : s.st = .hsReset) (hf : s.ch.writes = .ok :: rest) : Transition s
      ((((s.written Config.resetByte .ok rest).emit (.tx Config.resetByte .ok)).setRegs
        { s.regs with poll := some 0 }).goto .hsPoll)
  | resetFailed {rest} (h : s.st = .hsReset) (hf : s.ch.writes = .ioerr :: rest) : Transition s
      (((s.written Config.resetByte .ioerr rest).emit (.tx Config.resetByte .ioerr)).raise (.channelIo .handshakeWrite))
  | polled {e rest p r g q} (h : s.st = .hsPoll) (hr : s.ch.reads = e :: rest) (hp : s.regs.poll = some p)
      (hf : (readFrom s.ch.rxBuf e).1 = r)
      (hg : (r = .byte Config.respReady ∧ q = .cmdSend ∧ g = { s.regs with poll := some (p + 1), seq := some 0 }) ∨
        (r = .byte Config.respBusy ∧ q = .hsPoll ∧ p + 1 < 10 ∧ g = { s.regs with poll := some (p + 1) }) ∨
        (q = .hsBackoff ∧ g = { s.regs with poll := some (p + 1) })) :
      Transition s ((((s.readAt e rest).setRegs g).emit (.rx r s.st)).goto q)
  | backoff {n} (h : s.st = .hsBackoff) (hn : s.regs.rnd = some n) (hlt : n + 1 ≠ 100) : Transition s
      ((((s.waited (Config.backoffUnit * (n + 1))).emit (.backoff n (Config.backoffUnit * (n + 1)))).setRegs
        { s.regs with rnd := some (n + 1) }).goto .hsFlush)
  | handshakeFailed {n} (h : s.st = .hsBackoff) (hn : s.regs.rnd = some n) (hlt : n + 1 = 100) : Transition s
      ((((s.waited (Config.backoffUnit * (n + 1))).emit (.backoff n (Config.backoffUnit * (n + 1)))).setRegs
        { s.regs with rnd := some (n + 1) }).raise (.handshakeFailed Config.hsRounds))
  | commandSent {q b rest} (h : s.st = .cmdSend) (hq : s.regs.seq = some q) (hb : s.regs.cmdAt q = some b)
      (hf : s.ch.writes = .ok :: rest) : Transition s (((s.written b .ok rest).emit (.tx b .ok)).goto .cmdEcho)
  | commandFailed {q b rest} (h : s.st = .cmdSend) (hq : s.regs.seq = some q) (hb : s.regs.cmdAt q = some b)
      (hf : s.ch.writes = .ioerr :: rest) : Transition s
        (((s.written b .ioerr rest).emit (.tx b .ioerr)).raise (.channelIo (.command q)))
  | echoed {e rest v q b len g next} (h : s.st = .cmdEcho) (hr : s.ch.reads = e :: rest)
      (hf : (readFrom s.ch.rxBuf e).1 = .byte v) (hq : s.regs.seq = some q) (hb : s.regs.cmdAt q = some b)
      (he : expectedEcho s.params q b = some v) (hl : s.regs.cmdLen = some len)
      (hg : (q + 1 = len ∧ next = .dataRead ∧ g = { s.regs with seq := some (q + 1), k := some 0 }) ∨
        (q + 1 ≠ len ∧ next = .cmdSend ∧ g = { s.regs with seq := some (q + 1) })) :
      Transition s ((((s.readAt e rest).emit (.rx (.byte v) s.st)).setRegs g).goto next)
  /-- an echo that mismatches, or a read in CMD_ECHO, DATA_READ or CHK_READ that returns no byte -/
  | readFailed {e rest r err} (h : s.st = .cmdEcho ∨ s.st = .dataRead ∨ s.st = .chkRead) (hr : s.ch.reads = e :: rest)
      (hf : (readFrom s.ch.rxBuf e).1 = r) : Transition s (((s.readAt e rest).emit (.rx r s.st)).raise err)
  | dataStored {e rest v k w} (h : s.st = .dataRead) (h3 : k < 3) (hr : s.ch.reads = e :: rest)
      (hf : (readFrom s.ch.rxBuf e).1 = .byte v) (hk : s.regs.k = some k) (hw : s.regs.reqWidth = some w) : Transition s
        ((((s.readAt e rest).emit (.rx (.byte v) s.st)).setRegs
          { s.regs with data := s.regs.data.set k (some v), k := some (k + 1) }).goto
            (if k + 1 = w.toNat then .chkRead else .dataRead))
  | succeeded {e rest v w d n} (h : s.st = .chkRead) (hr : s.ch.reads = e :: rest)
      (hf : (readFrom s.ch.rxBuf e).1 = .byte v) (hw : s.regs.reqWidth = some w)
      (hd : dataBytes s.regs.data w.toNat = some d) (hs : checksum d = v) (hn : s.regs.att = some n) : Transition s
        ((((s.readAt e rest).emit (.rx (.byte v) s.st)).setRegs { s.regs with chk := some v }).respond
          { status := .ok, fails := some n, n := some w.toNat, bytes := d })
  | checksumMismatched {e rest v err} (h : s.st = .chkRead) (hr : s.ch.reads = e :: rest)
      (hf : (readFrom s.ch.rxBuf e).1 = .byte v) : Transition s
        ((((s.readAt e rest).emit (.rx (.byte v) s.st)).setRegs { s.regs with chk := some v }).raise err)
  | retried {n} (h : s.st = .attFail) (hn : s.regs.att = some n) (hlt : n + 1 ≠ 50) : Transition s
      (((s.emit (.attemptFail s.regs.att s.regs.lastErr)).setRegs { s.regs with att := some (n + 1) }).goto .attStart)
  | exhausted {n} (h : s.st = .attFail) (hn : s.regs.att = some n) (hlt : n + 1 = 50) : Transition s
      (((s.emit (.attemptFail s.regs.att s.regs.lastErr)).setRegs { s.regs with att := some (n + 1) }).respond
        { status := .readExhausted, fails := some Config.readAttempts })

variable {s t : State}

theorem State.setRegs_emit_setRegs (s : State) (g g' : Regs) (e : TraceEvent) :
    ((s.setRegs g).emit e).setRegs g' = (s.setRegs g').emit e := by
  cases s with
  | mk st regs traceEn => cases traceEn <;> rfl

theorem cls_ready {v : Byte} (h : cls v = .ready) : v = Config.respReady := by
  unfold cls at h; split at h
  · cases h
  · split at h
    · assumption
    · cases h

theorem cls_busy {v : Byte} (h : cls v = .busy) : v = Config.respBusy := by
  unfold cls at h; split at h
  · assumption
  · split at h <;> cases h

/-- A step that answers a next state makes one of the transitions. -/
theorem transition_of_step (h : step s = .next t) : Transition s t := by
  cases hres : s.resetIn with
  | true => simp only [step, hres, if_true, Host.Outcome.next.injEq] at h; subst h; exact .blockReset hres
  | false =>
  cases hst : s.st
  case idle =>
    rw [step_idle hres hst] at h
    rcases idleStep_next h with ⟨hb, rfl⟩ | ⟨w, rest, hq, ⟨n, a, -, hl, ho, rfl⟩ | ⟨r, d, rfl⟩⟩
    · exact .waiting (by simp [State.Blocked, *])
    · exact .readStart hst hq hl ho
    · exact .answered hst hq
  case unused => simp [step, hres, hst] at h
  case attStart =>
    rw [step_attStart hres hst] at h
    obtain ⟨a, w, ha, hw, rfl⟩ := attStart_next.mp h
    exact .attempt hst ha hw
  case hsFlush =>
    rw [step_hsFlush hres hst] at h
    obtain ⟨-, ⟨hb, rfl⟩ | ⟨rest, hf, rfl⟩ | ⟨rest, hf, rfl⟩⟩ := hsFlush_next.mp h
    · exact .waiting (by simp [State.Blocked, *])
    · exact .flushed hst hf
    · exact .flushFailed hst hf
  case hsReset =>
    rw [step_hsReset hres hst] at h
    obtain ⟨-, ⟨hb, rfl⟩ | ⟨rest, u, hf, rfl, rfl⟩ | ⟨rest, hf, rfl⟩⟩ := hsReset_next.mp h
    · exact .waiting (by simp [State.Blocked, *])
    · exact .resetSent hst hf
    · exact .resetFailed hst hf
  case hsPoll =>
    obtain ⟨-, ⟨hb, rfl⟩ | ⟨e, rest, hr, ⟨v, hv, h⟩ | ⟨hv, h⟩ | ⟨hv, h⟩⟩⟩ := step_hsPoll_next hres hst h
    · exact .waiting (by simp [State.Blocked, *])
    · obtain ⟨p, u, hp, rfl, h⟩ := pollByte_next.mp h
      rcases h with ⟨hc, rfl⟩ | ⟨hc, hlt, rfl⟩ | ⟨-, rfl⟩
      · rw [State.setRegs_emit_setRegs]
        exact .polled hst hr hp hv (.inl ⟨by rw [cls_ready hc], rfl, by simp⟩)
      · exact .polled hst hr hp hv (.inr (.inl ⟨by rw [cls_busy hc], rfl, hlt, rfl⟩))
      · exact .polled hst hr hp hv (.inr (.inr ⟨rfl, rfl⟩))
    all_goals
      obtain ⟨p, hp, rfl⟩ := pollNoByte_next.mp h
      exact .polled hst hr hp hv (.inr (.inr ⟨rfl, rfl⟩))
  case hsBackoff =>
    rw [step_hsBackoff hres hst] at h
    obtain ⟨n, u, hn, rfl, ⟨hne, rfl⟩ | ⟨hne, rfl⟩⟩ := hsBackoff_next.mp h
    · exact .handshakeFailed hst hn hne
    · exact .backoff hst hn hne
  case cmdSend =>
    rw [step_cmdSend hres hst] at h
    obtain ⟨q, b, hq, hb, -, ⟨hb', rfl⟩ | ⟨rest, hf, rfl⟩ | ⟨rest, hf, rfl⟩⟩ := cmdSend_next.mp h
    · exact .waiting (by simp [State.Blocked, *])
    · exact .commandSent hst hq hb hf
    · exact .commandFailed hst hq hb hf
  case cmdEcho =>
    obtain ⟨-, ⟨hb, rfl⟩ | ⟨e, rest, hr, ⟨v, hv, h⟩ | ⟨hv, h⟩ | ⟨hv, h⟩⟩⟩ := step_cmdEcho_next hres hst h
    · exact .waiting (by simp [State.Blocked, *])
    · obtain ⟨q, b, u, hq, hb, rfl, h⟩ := echoByte_next.mp h
      rcases h with ⟨he, len, hl, ⟨hn, rfl⟩ | ⟨hn, rfl⟩⟩ | ⟨-, rfl⟩
      · exact .echoed hst hr hv hq hb he hl (.inl ⟨hn, rfl, rfl⟩)
      · exact .echoed hst hr hv hq hb he hl (.inr ⟨hn, rfl, rfl⟩)
      · exact .readFailed (.inl hst) hr hv
    all_goals
      obtain ⟨q, hq, rfl⟩ := echoNoByte_next.mp h
      exact .readFailed (.inl hst) hr hv
  case dataRead =>
    obtain ⟨-, ⟨hb, rfl⟩ | ⟨e, rest, hr, ⟨v, hv, h⟩ | ⟨hv, h⟩ | ⟨hv, h⟩⟩⟩ := step_dataRead_next hres hst h
    · exact .waiting (by simp [State.Blocked, *])
    · obtain ⟨k, w, u, h3, hk, hw, rfl, rfl⟩ := dataByte_next.mp h
      exact .dataStored hst h3 hr hv hk hw
    all_goals
      obtain ⟨k, hk, rfl⟩ := dataNoByte_next.mp h
      exact .readFailed (.inr (.inl hst)) hr hv
  case chkRead =>
    obtain ⟨-, ⟨hb, rfl⟩ | ⟨e, rest, hr, ⟨v, hv, h⟩ | ⟨hv, h⟩ | ⟨hv, h⟩⟩⟩ := step_chkRead_next hres hst h
    · exact .waiting (by simp [State.Blocked, *])
    · obtain ⟨w, d, u, hw, hd, rfl, ⟨hc, n, hn, rfl⟩ | ⟨-, rfl⟩⟩ := chkByte_next.mp h
      · exact .succeeded hst hr hv hw hd hc hn
      · exact .checksumMismatched hst hr hv
    all_goals
      simp only [chkNoByte, Host.Outcome.next.injEq] at h
      subst h
      exact .readFailed (.inr (.inr hst)) hr hv
  case attFail =>
    rw [step_attFail hres hst] at h
    obtain ⟨n, u, hn, rfl, ⟨hne, rfl⟩ | ⟨hne, rfl⟩⟩ := attFail_next.mp h
    · exact .exhausted hst hn hne
    · exact .retried hst hn hne

end Sys2Proof.Machine
end

