-- ==== Sys2Proof/Tests/Slice0.lean ====
section
/-! SUPPORT. The model's own tests: ill-formed terms refused, words of spec/95_test_vectors.md and of the encodings of
30_encoding.md decoded, one step of every instruction against the spec's vectors, and for every statement with hypotheses
a state and operands that meet them. -/

namespace Sys2Proof.Tests

open Sys2Proof Sys2Proof.Machine

/-! ### Helpers -/

/-- A field of the next state. -/
def after {α : Type} (o : Result) (f : State → α) : Option α :=
  match o with
  | .next t => some (f t)
  | .fault _ => none
  | .refused _ => none

/-- The response to a request word, right after reset. -/
def answer (w : RequestWord) : Option (Option Resp) :=
  after (step (State.reset.withRequest w)) fun t => t.responses.head?

/-- The registers of READ 0x0346, 2 in its fourth attempt, with the command built (rule R157's example). -/
def regs : Regs :=
  { reqAddr := some 0x0346, reqWidth := some 2, cmd := #v[some 0x82, some 0x8E, some 0x92, some 0x9A, some 0xCA]
    cmdLen := some 5, att := some 3, rnd := some 0, poll := some 0, seq := some 1, k := some 0
    data := #v[none, none, none], chk := none, lastErr := none }

/-- That READ in sequencer state `q`, with registers `r` and these console events to come. -/
def reading (q : SeqState) (r : Regs) (reads : List RdEvent) : State :=
  { State.reset with
    st := q, regs := r, traceEn := true
    ch := { Channel.atReset with flushes := [.ok], writes := [.ok], reads := reads } }

/-- The READ after its data 0x50, 0x52, its checksum due (rule R151's example). -/
def checking (c : Byte) : State :=
  reading .chkRead { regs with poll := some 1, seq := some 5, k := some 2, data := #v[some 0x50, some 0x52, none] } [.arrived [c]]

/-! ### Ill-formed instructions are refused by the well-formedness check -/

theorem test_wf_read_width : Instr.wf (.read 0 0x0346) = false ∧ Instr.wf (.read 4 0x0346) = false ∧
    Instr.wf (.read 1 0) = true ∧ Instr.wf (.read 3 0xFFFF) = true := by decide
theorem test_wf_encode_width : Instr.wf (.encodeCommand 0 0x0346) = false ∧ Instr.wf (.encodeCommand 15 0x0346) = true := by
  decide
/-- The refused rows of 95_test_vectors.md L2.3. -/
theorem test_wf_echo_domain : Instr.wf (.expectedEcho 4 0x82) = false ∧ Instr.wf (.expectedEcho 4 0xC2) = false ∧
    Instr.wf (.expectedEcho 1 0x83) = false ∧ Instr.wf (.expectedEcho 1 0x06) = false ∧
    Instr.wf (.expectedEcho 5 0x82) = false ∧ Instr.wf (.expectedEcho 0 0x06) = true := by decide
theorem test_wf_check_length : Instr.wf (.checkData 0 0 0 0 0) = false ∧ Instr.wf (.checkData 4 0 0 0 0) = false := by
  decide
theorem test_wf_check_unused_bytes : Instr.wf (.checkData 2 0 3 2 1) = false ∧ Instr.wf (.checkData 1 0 0 2 1) = false := by
  decide
theorem test_wf_wind_direction : Instr.wf (.decodeWindDirection 2 0 0 0) = false ∧
    Instr.wf (.decodeWindDirection 0 0 0 0) = false ∧ Instr.wf (.decodeWindDirection 1 0 1 0) = false := by decide
theorem test_wf_len_zero : Instr.wf (.len 0) = false := by decide
theorem test_wf_other_not_busy_ready : Instr.wf (.hsOther 0x01) = false ∧ Instr.wf (.hsOther 0x02) = false := by decide

/-! ### Every constructor decodes from a word written out from its encoding -/

/-- 95_test_vectors.md P1, L1.1, L2.3, L2.4. -/
theorem test_decode_requests :
    decodeRequest 0b0001_0010_0000001101000110_00000000_00000000_00000000 = .ok (.read 2 0x0346) ∧
    decodeRequest 0b0010_0010_0000001101000110_00000000_00000000_00000000 = .ok (.encodeCommand 2 0x0346) ∧
    decodeRequest 0b0011_0001_0000000000000000_00000000_00000000_10001110 = .ok (.expectedEcho 1 0x8E) ∧
    decodeRequest 0b0100_0010_0000000001000110_00000000_00110100_00010010 = .ok (.checkData 2 0x46 0x00 0x34 0x12) := by
  decide
/-- 95_test_vectors.md L2.9 to L2.15. -/
theorem test_decode_decoders :
    decodeRequest 0b0101_0010_0000000000000000_00000000_01010010_01010000 = .ok (.decodeTemperature 0x52 0x50) ∧
    decodeRequest 0b0110_0001_0000000000000000_00000000_00000000_01000101 = .ok (.decodeHumidity 0x45) ∧
    decodeRequest 0b0111_0011_0000000000000000_01110111_00000011_11101000 = .ok (.decodeWindSpeed 0x77 0x03 0xE8) ∧
    decodeRequest 0b1000_0011_0000000000000000_00000000_00000001_00101010 =
      .ok (.decodeWindDirection 3 0x00 0x01 0x2A) ∧
    decodeRequest 0b1001_0011_0000000000000000_00000001_00010010_00110100 = .ok (.decodePrecipitation 0x01 0x12 0x34) ∧
    decodeRequest 0b1010_0011_0000000000000000_00100001_00000001_00110101 = .ok (.decodePressure 0x21 0x01 0x35) ∧
    decodeRequest 0b1011_0001_0000000000000000_00000000_00000000_00100001 = .ok (.decodeTendencyForecast 0x21) := by
  decide
/-- The forms of rules R86 to R89. -/
theorem test_decode_sent_symbols :
    decodeSymbol .resetSlot 0b00000110 = .ok .reset ∧ decodeSymbol (.commandSlot 0) 0b00000110 = .ok .cmdSpecial ∧
    decodeSymbol (.commandSlot 0) 0b10_0000_10 = .ok (.addrNibble 0) ∧
    decodeSymbol (.commandSlot 3) 0b10_1111_10 = .ok (.addrNibble 15) ∧
    decodeSymbol (.commandSlot 4) 0b11_0001_10 = .ok (.len 1) ∧
    decodeSymbol (.commandSlot 4) 0b11_1111_10 = .ok (.len 15) := by decide
/-- The forms of rules R90 to R92. -/
theorem test_decode_received_symbols :
    decodeSymbol .pollSlot 0b00000001 = .ok .busy ∧ decodeSymbol .pollSlot 0b00000010 = .ok .ready ∧
    decodeSymbol .pollSlot 0b00000110 = .ok (.hsOther 0x06) ∧
    decodeSymbol (.echoSlot 1) 0b00_01_0011 = .ok (.echoAddr 1 3) ∧
    decodeSymbol (.echoSlot 3) 0b0011_1111 = .ok (.echoAddr 3 15) ∧
    decodeSymbol (.echoSlot 4) 0b0011_1111 = .ok (.echoLen 15) ∧
    decodeSymbol .dataSlot 0b00110011 = .ok (.data 0x33) ∧
    decodeSymbol .checksumSlot 0b00110011 = .ok (.chksum 0x33) := by decide
/-- Reserved operation codes, illegal N, and a nonzero field marked "0" (rules R82, R83), and a misplaced symbol. -/
theorem test_decode_rejects :
    decodeRequest 0x000000000000 = .error (.reservedOp 0x0) ∧ decodeRequest 0xD00000000000 = .error (.reservedOp 0xD) ∧
    decodeRequest 0x510000000000 = .error (.illegalN 1) ∧ decodeRequest 0x120346000001 = .error .nonzeroField ∧
    decodeRequest 0x410100000000 = .error .nonzeroField ∧
    decodeSymbol (.commandSlot 4) 0x82 = .error (.notASymbolHere 0x82) ∧
    decodeSymbol (.echoSlot 4) 0x24 = .error (.notASymbolHere 0x24) := by decide

/-! ### A table word is placed where the next step runs it -/

theorem test_fetch_request : decodeTableWord 48 0x120346000000 = some (.read 2 0x0346) ∧
    after (step (State.reset.withFetchWord 48 0x120346000000)) (fun t => (t.st, t.regs.reqAddr, t.regs.reqWidth)) =
      some (.attStart, some 0x0346, some 2) := by decide
theorem test_fetch_reset : decodeTableWord 8 0x06 = some .reset ∧
    after (step (State.reset.withFetchWord 8 0x06)) (fun t => (t.st, t.ch.log)) = some (.hsPoll, [.write 0x06 .ok]) := by
  decide
theorem test_fetch_addr_nibble : decodeTableWord 8 0x8E = some (.addrNibble 3) ∧
    after (step (State.reset.withFetchWord 8 0x8E)) (fun t => (t.st, t.ch.log)) = some (.cmdEcho, [.write 0x8E .ok]) := by
  decide
theorem test_fetch_len : decodeTableWord 8 0xCA = some (.len 2) ∧
    after (step (State.reset.withFetchWord 8 0xCA)) (fun t => (t.st, t.ch.log)) = some (.cmdEcho, [.write 0xCA .ok]) := by
  decide
theorem test_fetch_ready : decodeTableWord 8 0x02 = some .ready ∧
    after (step (State.reset.withFetchWord 8 0x02)) (fun t => (t.st, t.regs.seq)) = some (.cmdSend, some 0) := by decide
theorem test_fetch_echo : decodeTableWord 8 0x13 = some (.echoAddr 1 3) ∧ decodeTableWord 8 0x32 = some (.echoLen 2) ∧
    after (step (State.reset.withFetchWord 8 0x13)) (fun t => (t.st, t.regs.seq)) = some (.cmdSend, some 2) ∧
    after (step (State.reset.withFetchWord 8 0x32)) (fun t => (t.st, t.regs.seq)) = some (.dataRead, some 5) := by decide
theorem test_fetch_wrong_size : decodeTableWord 16 0x06 = none ∧ decodeTableWord 8 0x106 = none := by decide

/-! ### One step of every instruction, against the spec's vectors -/

/-- P1: the acceptance of READ 0x0346, 2. -/
theorem test_read_accepted : after (step (State.reset.withRequest 0x120346000000)) (fun t =>
    (t.st, t.regs.reqAddr, t.regs.reqWidth, t.regs.att)) = some (.attStart, some 0x0346, some 2, some 0) := by decide
/-- P6: READ of width 4. -/
theorem test_read_refused : answer 0x140346000000 = some (some { status := .refused }) := by decide
/-- L1.1. -/
theorem test_encode_command : answer 0x220346000000 =
    some (some { status := .ok, n := some 5, bytes := [0x82, 0x8E, 0x92, 0x9A, 0xCA] }) := by decide
/-- P6. -/
theorem test_encode_command_special : answer 0x220006000000 =
    some (some { status := .ok, n := some 1, bytes := [0x06] }) := by decide
/-- L2.3. -/
theorem test_expected_echo : answer 0x31000000008E = some (some { status := .ok, n := some 1, bytes := [0x13] }) ∧
    answer 0x3400000000FE = some (some { status := .ok, n := some 1, bytes := [0x3F] }) := by decide
theorem test_expected_echo_special : answer 0x300000000006 = some (some { status := .ok, n := some 0 }) ∧
    answer 0x310000000006 = some (some { status := .refused }) := by decide
/-- L2.4. -/
theorem test_check_data : answer 0x4200000001FF = some (some { status := .ok, ok := some true }) ∧
    answer 0x420047003412 = some (some { status := .ok, ok := some false }) := by decide
theorem test_check_data_three : answer 0x4300FDFFFFFF = some (some { status := .ok, ok := some true }) ∧
    answer 0x420000030201 = some (some { status := .refused }) := by decide
/-- L2.9: a tie below zero, and non-decimal nibbles. -/
theorem test_decode_temperature : answer 0x520000002995 = some (some { status := .ok, value := some (-1), exact := some (-5) }) ∧
    answer 0x52000000FFFF = some (some { status := .ok, value := some 1367, exact := some 13665 }) := by decide
/-- L2.9: no negative zero. -/
theorem test_decode_temperature_zero : answer 0x520000002996 =
    some (some { status := .ok, value := some 0, exact := some (-4) }) := by decide
/-- L2.10. -/
theorem test_decode_humidity : answer 0x6100000000FF = some (some { status := .ok, value := some 165 }) ∧
    answer 0x610000000010 = some (some { status := .ok, value := some 10 }) := by decide
/-- L2.11. -/
theorem test_decode_wind_speed : answer 0x7300007703E8 = some (some { status := .ok, value := some 1000 }) ∧
    answer 0x73000000F000 = some (some { status := .ok, value := some 0 }) := by decide
/-- L2.12. -/
theorem test_decode_wind_direction : answer 0x83000000012A =
    some (some { status := .ok, value := some 450, idx1 := some 2 }) ∧
    answer 0x81000000008F = some (some { status := .ok, value := some 1800, idx1 := some 8 }) := by decide
/-- L1.10 to L1.12, L2.12. -/
theorem test_compass_labels : compassAt 0 = .n ∧ compassAt 4 = .e ∧ compassAt 11 = .wsw ∧ compassAt 15 = .nnw := by decide
/-- L2.13: a tie, and the largest value. -/
theorem test_decode_precipitation : answer 0x930000000025 = some (some { status := .ok, value := some 3, exact := some 25 }) ∧
    answer 0x930000FFFFFF = some (some { status := .ok, value := some 166667, exact := some 1666665 }) := by decide
/-- L2.14. -/
theorem test_decode_pressure : answer 0xA30000210135 = some (some { status := .ok, value := some 10135 }) ∧
    answer 0xA30000FFFFFF = some (some { status := .ok, value := some 166665 }) := by decide
/-- L2.15. -/
theorem test_decode_tendency_forecast : answer 0xB10000000021 =
    some (some { status := .ok, idx1 := some 2, idx2 := some 1 }) ∧
    answer 0xB10000000003 = some (some { status := .decodeRange }) := by decide
/-- L1.13, L1.14. -/
theorem test_tendency_forecast_labels : tendencyAt 1 = some .rising ∧ forecastAt 0 = some .rainy ∧
    tendencyAt 2 = some .falling ∧ forecastAt 1 = some .cloudy ∧ tendencyAt 3 = none := by decide
/-- A reserved operation (P6). -/
theorem test_reserved_refused : answer 0xD00000000000 = some (some { status := .refused }) := by decide
/-- L2.5 H1: the reset byte. -/
theorem test_reset_symbol : after (exec .reset (reading .hsReset regs [])) (fun t => (t.st, t.regs.poll, t.ch.log)) =
    some (.hsPoll, some 0, [.write 0x06 .ok]) := by decide
/-- Rule R136's example, at position 1. -/
theorem test_addr_nibble : after (exec (.addrNibble 3) (reading .cmdSend regs [])) (fun t => (t.st, t.ch.log)) =
    some (.cmdEcho, [.write 0x8E .ok]) ∧ exec (.addrNibble 4) (reading .cmdSend regs []) = .fault .symbolOutOfPosition :=
  ⟨by decide, rfl⟩
theorem test_len : after (exec (.len 2) (reading .cmdSend { regs with seq := some 4 } [])) (fun t => (t.st, t.ch.log)) =
    some (.cmdEcho, [.write 0xCA .ok]) := by decide
/-- P3: the one-byte command. -/
theorem test_cmd_special : after (exec .cmdSpecial (reading .cmdSend
    { regs with cmd := #v[some 0x06, none, none, none, none], cmdLen := some 1, seq := some 0 } [])) (fun t =>
    (t.st, t.ch.log)) = some (.cmdEcho, [.write 0x06 .ok]) := by decide
/-- L2.5 H3, H4: the tenth poll. -/
theorem test_busy : after (exec .busy (reading .hsPoll { regs with poll := some 8 } [])) (fun t => (t.st, t.regs.poll)) =
    some (.hsPoll, some 9) ∧
    after (exec .busy (reading .hsPoll { regs with poll := some 9 } [])) (fun t => (t.st, t.regs.poll)) =
    some (.hsBackoff, some 10) := by decide
theorem test_ready : after (exec .ready (reading .hsPoll { regs with poll := some 9 } [])) (fun t =>
    (t.st, t.regs.poll, t.regs.seq)) = some (.cmdSend, some 10, some 0) := by decide
/-- L2.5 H6. -/
theorem test_hs_other : after (exec (.hsOther 0x7F) (reading .hsPoll { regs with poll := some 2 } [])) (fun t =>
    (t.st, t.regs.poll)) = some (.hsBackoff, some 3) := by decide
/-- Rule R137's example: 0x13 matches, 0x14 does not. -/
theorem test_echo_addr : after (exec (.echoAddr 1 3) (reading .cmdEcho regs [])) (fun t => (t.st, t.regs.seq)) =
    some (.cmdSend, some 2) ∧
    after (exec (.echoAddr 1 4) (reading .cmdEcho regs [])) (fun t => (t.st, t.regs.lastErr, t.trace)) =
    some (.attFail, some .echoMismatch, [.error (.echoMismatch 1 (some 0x13) 0x14) .cmdEcho, .rx (.byte 0x14) .cmdEcho]) := by
  decide
/-- L2.6: 0x32 and not 0x36 at position 4. -/
theorem test_echo_len : after (exec (.echoLen 2) (reading .cmdEcho { regs with seq := some 4 } [])) (fun t =>
    (t.st, t.regs.seq, t.regs.k)) = some (.dataRead, some 5, some 0) ∧
    after (exec (.echoLen 6) (reading .cmdEcho { regs with seq := some 4 } [])) (fun t => (t.st, t.regs.lastErr)) =
    some (.attFail, some .echoMismatch) := by decide
/-- Rule R150's example. -/
theorem test_data : after (exec (.data 0x50) (reading .dataRead regs [])) (fun t => (t.st, t.regs.k, t.regs.data)) =
    some (.dataRead, some 1, #v[some 0x50, none, none]) ∧
    after (exec (.data 0x52) (reading .dataRead { regs with k := some 1, data := #v[some 0x50, none, none] } []))
      (fun t => (t.st, t.regs.k, t.regs.data)) = some (.chkRead, some 2, #v[some 0x50, some 0x52, none]) := by decide
/-- Rule R151's example: 0xA2 succeeds. -/
theorem test_chksum : after (exec (.chksum 0xA2) (checking 0)) (fun t => (t.st, t.regs, t.responses)) =
    some (.idle, Regs.unwritten, [{ status := .ok, fails := some 3, n := some 2, bytes := [0x50, 0x52] }]) := by decide
/-- Rule R151's example: 0xA3 raises ChecksumMismatch(0xA2, 0xA3). -/
theorem test_chksum_mismatch : after (exec (.chksum 0xA3) (checking 0)) (fun t => (t.st, t.regs.lastErr, t.trace.head?)) =
    some (.attFail, some .checksumMismatch, some (.error (.checksumMismatch 0xA2 0xA3) .chkRead)) := by decide

/-! ### Rounding (95_test_vectors.md L1.4 to L1.8, L2.8) -/

theorem test_rt : rt 2250 = 225 ∧ rt (-2995) = -300 ∧ rt (-85) = -9 ∧ rt 5 = 1 ∧ rt 14 = 1 ∧ rt (-4) = 0 := by decide
theorem test_tie_neighbours : tieNeighbour (-15) false = -1 ∧ tieNeighbour (-15) true = -2 ∧ tieNeighbour 5 false = 0 := by
  decide
theorem test_round_two_places : roundDec (-100.12345) 2 = -100.12 := by norm_num [roundDec]
theorem test_round_five_places : roundDec 100.12345 5 = 100.12345 := by norm_num [roundDec]

/-! ### States that meet the hypotheses of the statements of Certificates/Slice0/Obligations.lean

One theorem for each statement with hypotheses, with a case for each of its clauses, at boundary values. -/

/-- IDLE with these requests waiting. -/
def idle (ws : List RequestWord) : State := { State.reset with requests := ws }

/-- The registers at the start of the attempt's handshake. -/
def early : Regs := { regs with poll := none, seq := none, k := none }
/-- They after READY on the first poll, in the command's last byte. -/
def inCommand : Regs := { early with poll := some 1, seq := some 4 }
/-- They after the attempt's hundredth round. -/
def failed : Regs := { early with rnd := some 100, poll := some 10, lastErr := some .handshakeFailed }

/-- IDLE meets the invariant, with the channel open or not. -/
theorem test_inv_idle (ws : List RequestWord) (o : Bool) :
    State.Inv { idle ws with ch := { Channel.atReset with isOpen := o } } := .inl ⟨rfl, rfl⟩

/-- A READ just accepted meets the invariant. -/
theorem test_inv_requested : (reading .attStart (Regs.requested 0x0346 2) []).Inv :=
  .inr ⟨0x0346, 2, 0, rfl, rfl, rfl, by decide, rfl, by decide, .inl ⟨rfl, rfl⟩⟩

/-- Every state of a READ has a state that meets the invariant. -/
theorem test_inv_reading (es : List RdEvent) :
    (reading .attStart failed es).Inv ∧ (reading .hsFlush early es).Inv ∧ (reading .hsReset early es).Inv ∧
    (reading .hsPoll { early with poll := some 9 } es).Inv ∧ (reading .hsBackoff { early with poll := some 10 } es).Inv ∧
    (reading .cmdSend inCommand es).Inv ∧ (reading .cmdEcho inCommand es).Inv ∧
    (reading .dataRead { inCommand with seq := some 5, k := some 1, data := #v[some 0x50, none, none] } es).Inv ∧
    (checking 0xA2).Inv ∧ (reading .attFail failed es).Inv := by
  have mk : ∀ q r, r.reqAddr = some 0x0346 → r.reqWidth = some 2 → r.att = some 3 →
      r.cmd = loadCmd (encodeCmd 0x0346 2) → r.cmdLen = some 5 →
      (∃ rnd, r.rnd = some rnd ∧ PhaseOk r 5 2 rnd q) → ∀ es, (reading q r es).Inv :=
    fun q r ha hw hn hc hl hp es =>
      .inr ⟨0x0346, 2, 3, rfl, ha, hw, by decide, hn, by decide, .inr ⟨fun _ => by decide, hc, hl, hp⟩⟩
  have hf : failed.Failed 5 2 100 :=
    ⟨by decide, ⟨.handshakeFailed, rfl, by decide⟩, (fun p h => by cases h; decide), (fun q h => by cases h), .inl ⟨rfl, rfl, rfl⟩⟩
  refine ⟨mk .attStart _ rfl rfl rfl rfl rfl ⟨100, rfl, hf⟩ es, mk _ _ rfl rfl rfl rfl rfl ⟨0, rfl, ?_⟩ es,
    mk _ _ rfl rfl rfl rfl rfl ⟨0, rfl, ?_⟩ es, mk _ _ rfl rfl rfl rfl rfl ⟨0, rfl, ?_⟩ es,
    mk _ _ rfl rfl rfl rfl rfl ⟨0, rfl, ?_⟩ es, mk _ _ rfl rfl rfl rfl rfl ⟨0, rfl, ?_⟩ es,
    mk _ _ rfl rfl rfl rfl rfl ⟨0, rfl, ?_⟩ es, mk _ _ rfl rfl rfl rfl rfl ⟨0, rfl, ?_⟩ es,
    mk _ _ rfl rfl rfl rfl rfl ⟨0, rfl, ?_⟩ _, mk .attFail _ rfl rfl rfl rfl rfl ⟨100, rfl, hf⟩ es⟩
  · exact ⟨by decide, rfl, .inl ⟨rfl, rfl⟩, rfl, rfl, rfl, rfl⟩
  · exact ⟨by decide, rfl, .inl ⟨rfl, rfl⟩, rfl, rfl, rfl, rfl⟩
  · exact ⟨by decide, rfl, ⟨9, rfl, by decide⟩, rfl, rfl, rfl, rfl⟩
  · exact ⟨by decide, rfl, ⟨10, rfl, by decide, by decide⟩, rfl, rfl, rfl, rfl⟩
  · exact ⟨by decide, rfl, ⟨1, rfl, by decide, by decide⟩, ⟨4, rfl, by decide⟩, rfl, rfl, rfl⟩
  · exact ⟨by decide, rfl, ⟨1, rfl, by decide, by decide⟩, ⟨4, rfl, by decide⟩, rfl, rfl, rfl⟩
  · exact ⟨by decide, rfl, ⟨1, rfl, by decide, by decide⟩, rfl, ⟨1, by decide, rfl, by decide⟩, rfl⟩
  · exact ⟨by decide, rfl, ⟨1, rfl, by decide, by decide⟩, rfl, ⟨rfl, by decide⟩, rfl⟩

/-- A state whose counters no run reaches does not meet it. -/
theorem test_inv_excludes : ¬(reading .hsFlush { early with poll := some 1000 } []).Inv := by
  rintro (⟨h, -⟩ | ⟨a, w, att, h⟩)
  · cases h
  · obtain ⟨h, -⟩ | ⟨-, -, -, rnd, -, -, -, ⟨-, h⟩ | ⟨-, p, h, -, hp⟩, -⟩ := h.phase
    · cases h
    · cases h
    · cases h; exact absurd hp (by decide)

theorem test_witness_DecodeOfEncode :
    (Instr.wf (.read 3 0xFFFF) = true ∧ Instr.standsAt (.read 3 0xFFFF) .request = true) ∧
    (Instr.wf (.addrNibble 15) = true ∧ Instr.standsAt (.addrNibble 15) (.commandSlot 3) = true) ∧
    (Instr.wf (.hsOther 0xFF) = true ∧ Instr.standsAt (.hsOther 0xFF) .pollSlot = true) := by decide

theorem test_witness_EncodeOfDecode : ∃ i j, decode .request (.request 0xB10000000021) = .ok i ∧
    decode (.echoSlot 4) (.symbol 0x3F) = .ok j := ⟨_, _, rfl, rfl⟩

theorem test_witness_StepRunsDecodedRequest : (idle [0x120346000000]).resetIn = false ∧
    (idle [0x120346000000]).st = .idle ∧ (idle [0x120346000000]).requests = [0x120346000000] ∧
    decode .request (.request 0x120346000000) = .ok (.read 2 0x0346) := ⟨rfl, rfl, rfl, rfl⟩

theorem test_witness_StepRunsDecodedSymbol :
    (reading .hsReset regs []).st = .hsReset ∧
    ((reading .cmdSend regs []).regs.cmdAt 1 = some 0x8E ∧
      decode (.commandSlot 1) (.symbol 0x8E) = .ok (.addrNibble 3)) ∧
    (∀ q, (reading q regs [.arrived [0x02]]).resetIn = false ∧ (reading q regs [.arrived [0x02]]).ch.isOpen = true ∧
      readFrom (reading q regs []).ch.rxBuf (.arrived [0x02]) = (.byte 0x02, [])) ∧
    decode .pollSlot (.symbol 0x02) = .ok .ready ∧ decode (.echoSlot 1) (.symbol 0x02) = .ok (.echoAddr 0 2) ∧
    decode .dataSlot (.symbol 0x02) = .ok (.data 2) ∧ decode .checksumSlot (.symbol 0x02) = .ok (.chksum 2) :=
  ⟨rfl, ⟨rfl, rfl⟩, fun _ => ⟨rfl, rfl, rfl⟩, rfl, rfl, rfl, rfl⟩

/-- Both sides of the boundary of READ's widths, and words refused for the other reasons of rule R83. -/
theorem test_witness_RefusedExactlyWhenIllFormed :
    LegalRequest 0x110006000000 ∧ LegalRequest 0x130346000000 ∧ ¬LegalRequest 0x100346000000 ∧
    ¬LegalRequest 0x140346000000 ∧ ¬LegalRequest 0xC00000000000 ∧ ¬LegalRequest 0x3400000000C2 ∧
    LegalRequest 0x3400000000C6 := by
  refine ⟨.inl (by decide), .inl (by decide), ?_, ?_, ?_, ?_, ?_⟩
  · rintro (h | h | h | h | h | h | h | h | h | h | h) <;> revert h <;> simp [slice]
  · rintro (h | h | h | h | h | h | h | h | h | h | h) <;> revert h <;> simp [slice]
  · rintro (h | h | h | h | h | h | h | h | h | h | h) <;> revert h <;> simp [slice]
  · rintro (h | h | h | h | h | h | h | h | h | h | h) <;> revert h <;> simp [slice]
  · exact .inr (.inr (.inl ⟨by decide, by decide, by decide, by decide, .inr (.inr ⟨by decide, 1, by decide, by decide,
      by decide⟩)⟩))

theorem test_witness_RequestsTakenOnlyInIdle : (∃ t, step (idle [0x220346000000]) = .next t) ∧
    ∃ t, step (reading .hsPoll regs [.arrived [0x02]]) = .next t := ⟨⟨_, rfl⟩, _, rfl⟩

theorem test_witness_HostOperationOutsideIdleIsStuck : Instr.isHostOp (.decodeHumidity 0x45) = true ∧
    (reading .hsPoll regs []).st ≠ .idle := by decide

theorem test_witness_BlockResetAbandonsRequest :
    { reading .dataRead regs [] with resetIn := true }.resetIn = true := rfl

theorem test_witness_StepKeepsInvariant : (reading .hsFlush early []).Inv ∧
    ∃ t, step (reading .hsFlush early []) = .next t := ⟨(test_inv_reading []).2.1, _, rfl⟩

/-- Both outcomes of the statement occur. -/
theorem test_witness_OnlyReadWithoutChannelStops : (∃ t, step (reading .hsFlush early []) = .next t) ∧
    step { idle [0x120346000000] with ch := { Channel.atReset with isOpen := false } } = .fault .noOpenChannel ∧
    decode .request (.request 0x120346000000) = .ok (.read 2 0x0346) ∧
    (∃ t, step { idle [0x220346000000] with ch := { Channel.atReset with isOpen := false } } = .next t) :=
  ⟨⟨_, rfl⟩, rfl, rfl, _, rfl⟩

theorem test_witness_ResponseLeavesAllUnwritten : (checking 0xA2).Inv ∧
    ∃ t, step (checking 0xA2) = .next t ∧ t.responses ≠ (checking 0xA2).responses :=
  ⟨(test_inv_reading []).2.2.2.2.2.2.2.2.1, _, rfl, by decide⟩

theorem test_witness_StepKeepsParameters : ∃ t, step (reading .hsReset regs []) = .next t := ⟨_, rfl⟩

/-- The host operations' statements suppose IDLE: the state after reset. -/
theorem test_witness_host_operations : State.reset.st = .idle := rfl

theorem test_witness_EncodeCommandAnswers : (1 : Nibble) ≠ 0 ∧ (15 : Nibble) ≠ 0 ∧ (0x0600 : Addr) ≠ 0x0006 := by decide

/-- The clauses of EXPECTED_ECHO at the ends of their ranges, and on a pair outside the domain. -/
theorem test_witness_ExpectedEchoAnswers : (3 : Nibble).toNat < 4 ∧ (0x82 : Byte).toNat = 0x82 + 4 * 0 ∧
    (0xBE : Byte).toNat = 0x82 + 4 * 15 ∧ (0xC6 : Byte).toNat = 0xC2 + 4 * 1 ∧ (0xFE : Byte).toNat = 0xC2 + 4 * 15 ∧
    Config.Params.default.specialEcho = none ∧ legalEcho 5 0x82 = false ∧ legalEcho 4 0xC2 = false := by decide

theorem test_witness_CheckDataAnswers : ¬(((2 : Nibble) = 1 ∧ (3 : Byte) = 0 ∧ (2 : Byte) = 0) ∨
    ((2 : Nibble) = 2 ∧ (3 : Byte) = 0) ∨ (2 : Nibble) = 3) := by decide

theorem test_witness_WindDirectionAnswers : ¬(((2 : BitVec 2) = 1 ∧ (0 : Byte) = 0 ∧ (0 : Byte) = 0) ∨ (2 : BitVec 2) = 3) ∧
    ¬(((1 : BitVec 2) = 1 ∧ (0 : Byte) = 0 ∧ (1 : Byte) = 0) ∨ (1 : BitVec 2) = 3) := by decide

theorem test_witness_TendencyForecastAnswers : (0x22 : Byte).toNat / 16 ≤ 2 ∧ (0x22 : Byte).toNat % 16 ≤ 2 ∧
    2 < (0x30 : Byte).toNat / 16 ∧ 2 < (0x03 : Byte).toNat % 16 := by decide

theorem test_witness_ReadIsAccepted : 1 ≤ (1 : Nibble).toNat ∧ (3 : Nibble).toNat ≤ 3 ∧ State.reset.ch.isOpen = true ∧
    { State.reset with ch := { Channel.atReset with isOpen := false } }.ch.isOpen = false ∧
    ¬(1 ≤ (0 : Nibble).toNat ∧ (0 : Nibble).toNat ≤ 3) ∧ ¬(1 ≤ (4 : Nibble).toNat ∧ (4 : Nibble).toNat ≤ 3) := by decide

theorem test_witness_PureOperationsFrame : Instr.isHostOp (.checkData 1 0 0 0 0) = true ∧
    (∀ n a, Instr.checkData 1 0 0 0 0 ≠ .read n a) ∧ ∃ t, exec (.checkData 1 0 0 0 0) State.reset = .next t :=
  ⟨rfl, fun _ _ h => Instr.noConfusion h, _, rfl⟩

theorem test_witness_CommandBytesInRange : (0x6006 : Addr) ≠ 0x0006 ∧ encodeCmd 0x0006 1 = [0x06] := by decide

theorem test_witness_CommandDeterminesRequest : encodeCmd 0x0346 2 = [0x82, 0x8E, 0x92, 0x9A, 0xCA] ∧
    encodeCmd 0x0346 15 = encodeCmd 0x0346 16 := by decide

/-- Rule R141's example. -/
theorem test_witness_EchoesOfGeneralCommand : (0x0346 : Addr) ≠ 0x0006 ∧
    (List.range 5).map (fun q => (encodeCmd 0x0346 2)[q]?.bind (expectedEcho Config.Params.default q)) =
      [some 0x00, some 0x13, some 0x24, some 0x36, some 0x32] := by decide

/-- The spec's double error, [0x51, 0x51] for [0x50, 0x52] (L2.4). -/
theorem test_witness_ChecksumDetectsOneByte : (0x50 : Byte) ≠ 0x51 ∧ (0xA3 : Byte) ≠ checksum [0x50, 0x52] ∧
    checksum [0x51, 0x51] = checksum [0x50, 0x52] := by decide

theorem test_witness_IgnoredBitsHaveNoEffect : (0xF3 : Byte).toNat % 16 = (0x03 : Byte).toNat % 16 ∧
    (0x8F : Byte).toNat / 16 = (0x80 : Byte).toNat / 16 := by decide

theorem test_witness_NamedReadsAreAccepted : State.reset.st = .idle ∧ State.reset.ch.isOpen = true := by decide

theorem test_witness_FlushStep : (reading .hsFlush early []).ch.flushes = [.ok] ∧
    { reading .hsFlush early [] with ch := { Channel.atReset with flushes := [.ioerr] } }.ch.flushes = [.ioerr] ∧
    (reading .hsFlush early []).resetIn = false ∧ (reading .hsFlush early []).ch.isOpen = true := by decide

/-- A stale byte 0x02 in the buffer, flushed away before the reset byte goes out. -/
theorem test_witness_FlushDiscardsStaleBytes_flush :
    ∃ t u, step { reading .hsFlush early [.arrived [0x01]] with
        ch := { (reading .hsFlush early [.arrived [0x01]]).ch with rxBuf := [0x02] } } = .next t ∧
      t.ch.writes = [.ok] ∧ t.ch.reads = [.arrived [0x01]] ∧ step t = .next u ∧ u.ch.rxBuf = [] :=
  ⟨_, _, rfl, rfl, rfl, rfl, rfl⟩

/-- A byte 0x77 that arrived after READY: it is read as the echo of the command byte that is sent next. -/
theorem test_witness_FlushDiscardsStaleBytes :
    ∃ t u, step { reading .cmdSend regs [.arrived [0x13]] with
        ch := { (reading .cmdSend regs [.arrived [0x13]]).ch with rxBuf := [0x77] } } = .next t ∧
      t.ch.isOpen = true ∧ t.ch.rxBuf = [0x77] ∧ t.ch.reads = [.arrived [0x13]] ∧ step t = .next u ∧
      u.ch.rxBuf = [0x13] ∧ u.st = .attFail :=
  ⟨_, _, rfl, rfl, rfl, rfl, rfl, rfl, rfl⟩

theorem test_witness_ResetByteIsWritten : (reading .hsReset regs []).st = .hsReset ∧
    (reading .hsReset regs []).ch.writes = [.ok] ∧ (reading .hsReset regs []).ch.isOpen = true ∧
    after (exec .reset { reading .hsReset regs [] with ch := { Channel.atReset with writes := [.ioerr] } })
      (fun t => (t.st, t.regs.lastErr)) = some (.attFail, some .channelIo) := by decide

theorem test_witness_PollBytesAreClassified : (reading .hsPoll regs []).regs.poll = some 0 ∧
    (0x00 : Byte) ≠ 0x01 ∧ (0x03 : Byte) ≠ 0x02 := by decide

theorem test_witness_PollFailuresAbandonRound :
    readFrom [] (.arrived []) = (.timeout, []) ∧ readFrom [0x02] .ioerr = (.ioerr, [0x02]) ∧
    readFrom [0x03] (.arrived [0x02]) = (.byte 0x03, [0x02]) ∧ (reading .hsPoll regs [.arrived []]).resetIn = false := by
  decide

theorem test_witness_BackoffStep : (reading .hsBackoff { regs with rnd := some 98 } []).regs.rnd = some 98 ∧
    98 + 1 ≠ 100 ∧ (reading .hsBackoff { regs with rnd := some 99 } []).regs.rnd = some 99 := by decide

theorem test_witness_CommandSymbolsAreSent : (0x8E : Byte).toNat = 0x82 + 4 * (3 : Nibble).toNat ∧
    (reading .cmdSend regs []).regs.cmdAt 1 = some 0x8E ∧ (0xCA : Byte).toNat = 0xC2 + 4 * (2 : Nibble).toNat ∧
    (reading .cmdSend { regs with seq := some 4 } []).regs.cmdAt 4 = some 0xCA ∧
    (reading .cmdSend { regs with cmd := #v[some 0x06, none, none, none, none] } []).regs.cmdAt 0 = some 0x06 := by decide

theorem test_witness_SentSymbolsHaveOnePlace : State.reset.st ≠ .hsReset ∧ State.reset.st ≠ .cmdSend := by decide

theorem test_witness_EchoSymbolsAreJudged :
    (0x13 : Byte).toNat = 16 * (1 : BitVec 2).toNat + (3 : Nibble).toNat ∧ (0x32 : Byte).toNat = 0x30 + (2 : Nibble).toNat ∧
    (reading .cmdEcho regs []).regs.cmdLen = some 5 ∧ expectedEcho Config.Params.default 1 0x8E = some 0x13 ∧
    expectedEcho Config.Params.default 4 0xCA = some 0x32 ∧ expectedEcho Config.Params.default 1 0x8E ≠ some 0x14 := by
  decide

theorem test_witness_MatchingEchoAdvances : readFrom [] (.arrived [0x7F]) = (.byte 0x7F, []) ∧
    expectedEcho { specialEcho := some 0x7F, tiePolicy := .exact } 0 0x06 = some 0x7F ∧ 0 + 1 = 1 ∧
    expectedEcho Config.Params.default 3 0x9A = some 0x36 ∧ 3 + 1 ≠ 5 := by decide

theorem test_witness_EchoMismatchIsRaised : readFrom [] (.arrived [0xFF]) = (.byte 0xFF, []) ∧
    expectedEcho Config.Params.default 1 0x8E ≠ some 0xFF ∧ Config.Params.default.specialEcho = none := by decide

theorem test_witness_AttemptStartBuildsCommand : (reading .attStart regs []).regs.reqAddr = some 0x0346 ∧
    (reading .attStart regs []).regs.reqWidth = some 2 ∧ (reading .attStart regs []).resetIn = false := by decide

theorem test_witness_DataByteIsStored : (reading .dataRead { regs with k := some 2 } []).regs.k = some 2 ∧ 2 < 3 := by decide

theorem test_witness_ChecksumByteIsJudged :
    (∀ i, i < 2 → (checking 0).regs.data[i]?.join = ([0x50, 0x52] : List Byte)[i]?) ∧
    (([0x50, 0x52] : List Byte).map BitVec.toNat).sum % 256 = (0xA2 : Byte).toNat ∧
    (([0x50, 0x52] : List Byte).map BitVec.toNat).sum % 256 ≠ (0xA3 : Byte).toNat := by decide

theorem test_witness_ReadFailureIsChannelIo : readFrom [] (.arrived []) = (.timeout, []) ∧
    readFrom [] .ioerr = (.ioerr, []) ∧ (reading .cmdEcho regs [.ioerr]).regs.seq = some 1 ∧
    (reading .dataRead regs [.ioerr]).regs.k = some 0 ∧ (reading .chkRead regs [.ioerr]).ch.reads = [.ioerr] := by decide

theorem test_witness_FailedAttemptIsCounted : 48 + 1 ≠ 50 ∧
    (reading .attFail { regs with att := some 48 } []).regs.att = some 48 ∧
    (reading .attFail { regs with att := some 49 } []).regs.att = some 49 := by decide

theorem test_witness_UnreadBytesAreBuffered : encode .busy = .symbol 0x01 ∧ encode (.echoAddr 3 15) = .symbol 0x3F ∧
    encode (.chksum 0xA2) = .symbol 0xA2 ∧ (reading .cmdSend regs []).st = .cmdSend := by decide

theorem test_witness_TraceHasNoEffect : (reading .hsPoll regs []).traceEn ≠
    { reading .hsPoll regs [] with traceEn := false }.traceEn ∧
    (reading .hsPoll regs []).untraced = { reading .hsPoll regs [] with traceEn := false }.untraced := by decide

theorem test_witness_OneChannelOperationPerStep : ∃ t, step (reading .hsReset regs []) = .next t ∧
    t.ch.log = [.write 0x06 .ok] := ⟨_, rfl, rfl⟩

theorem test_witness_OnlyProtocolBytesAreSent : (reading .cmdSend inCommand []).Inv ∧
    ∃ t, step (reading .cmdSend inCommand []) = .next t ∧ t.ch.log = [.write 0xCA .ok] :=
  ⟨(test_inv_reading []).2.2.2.2.2.1, _, rfl, rfl⟩

/-- Both outcomes of the statement occur. -/
theorem test_witness_ReadRespondsOnceAtItsEnd : (checking 0xA2).Inv ∧
    (∃ t, step (checking 0xA2) = .next t ∧ t.st = .idle) ∧ ∃ t, step (checking 0xA3) = .next t ∧ t.st = .attFail :=
  ⟨(test_inv_reading []).2.2.2.2.2.2.2.2.1, ⟨_, rfl, rfl⟩, _, rfl, rfl⟩

/-- A READ of 0x0006 whose fiftieth attempt has failed. -/
def specialFailed : State :=
  reading .attFail { early with
    poll := some 1, seq := some 0, reqAddr := some 0x0006, cmd := #v[some 0x06, none, none, none, none], cmdLen := some 1, att := some 49
    lastErr := some .echoMismatch } []

theorem test_witness_SpecialAddressNeverSucceeds : specialFailed.Inv ∧ specialFailed.SpecialBarred ∧
    specialFailed.params.specialEcho = none ∧
    ∃ t, step specialFailed = .next t ∧ t.responses = [{ status := .readExhausted, fails := some 50 }] :=
  ⟨.inr ⟨0x0006, 2, 49, rfl, rfl, rfl, by decide, rfl, by decide, 
    .inr ⟨by decide, rfl, rfl, 0, rfl, by decide, ⟨.echoMismatch, rfl, by decide⟩, (fun p h => by cases h; decide),
      (fun q h => by cases h; decide), .inl ⟨rfl, rfl, rfl⟩⟩⟩, fun _ _ => by decide, rfl, _, rfl, rfl⟩

theorem test_witness_ChannelOperationsAreBudgeted : (∃ t, step (reading .hsReset early []) = .next t) ∧
    ∃ t, exec (.read 3 0x0346) State.reset = .next t ∧ t.st = .attStart := ⟨⟨_, rfl⟩, _, rfl, rfl⟩

/-- The last checksum byte of the last attempt: one operation is left, and the channel answers it. -/
def lastChecksum : State :=
  { checking 0xA3 with regs := { (checking 0xA3).regs with att := some 49 } }

theorem test_witness_ReadEndsWithinItsBudget : lastChecksum.Inv ∧ lastChecksum.st ≠ .idle ∧
    lastChecksum.resetIn = false ∧ lastChecksum.opsLeft = 1 ∧ lastChecksum.answers lastChecksum.opsLeft :=
  ⟨.inr ⟨0x0346, 2, 49, rfl, rfl, rfl, by decide, rfl, by decide, .inr ⟨by decide, rfl, rfl, 0, rfl, by decide, rfl,
    ⟨1, rfl, by decide, by decide⟩, rfl, ⟨rfl, by decide⟩, rfl⟩⟩,
    by decide, rfl, by decide, by decide, by decide, by decide⟩

/-- A console that answers READ 0x0346, 2 with [0x50, 0x52] at once (95_test_vectors.md P1 with no BUSY). -/
def correctConsole : State :=
  { idle [0x120346000000] with
    ch := { Channel.atReset with
      flushes := [.ok]
      writes := [.ok, .ok, .ok, .ok, .ok, .ok]
      reads := .arrived [0x02] :: ([0x00, 0x13, 0x24, 0x36, 0x32, 0x50, 0x52, 0xA2] : List Byte).map
        fun v => RdEvent.arrived [v] } }

theorem test_witness_CorrectConsoleIsReadAtOnce : correctConsole.Inv ∧ correctConsole.st = .idle ∧
    correctConsole.resetIn = false ∧ correctConsole.ch.isOpen = true ∧ (0x0346 : Addr) ≠ 0x0006 ∧
    ([0x50, 0x52] : List Byte).length = (2 : Nibble).toNat ∧
    correctConsole.requests = packRequest 0x1 2 0x0346 0 0 0 :: [] ∧ correctConsole.ch.flushes = .ok :: [] ∧
    correctConsole.ch.writes = List.replicate 6 .ok ++ [] ∧
    correctConsole.ch.reads = .arrived [0x02] ::
      ([BitVec.ofNat 8 ((0x0346 : Addr).toNat / 4096), BitVec.ofNat 8 (0x10 + (0x0346 : Addr).toNat / 256 % 16),
        BitVec.ofNat 8 (0x20 + (0x0346 : Addr).toNat / 16 % 16), BitVec.ofNat 8 (0x30 + (0x0346 : Addr).toNat % 16),
        BitVec.ofNat 8 (0x30 + (2 : Nibble).toNat)] ++ [0x50, 0x52] ++
        [BitVec.ofNat 8 ((([0x50, 0x52] : List Byte).map BitVec.toNat).sum % 256)]).map
        (fun v => RdEvent.arrived [v]) ++ [] :=
  ⟨.inl ⟨rfl, rfl⟩, by decide⟩

end Sys2Proof.Tests
end

/-! PROOFS. The statements of the family 00_scope.md. -/

namespace Sys2Proof.Machine

/-- Each transition is a chain of the shared updates (`emit`, `setRegs`, `goto`, a channel operation, a delivery), none of
which writes the parameters or TRACE_EN (rules R8, R33, R38). -/
theorem Transition.keeps_params_traceEn {s t : State} (h : Transition s t) :
    t.params = s.params ∧ t.traceEn = s.traceEn := by
  cases h <;> simp

/-- Settles O15: no transition writes the parameters or the trace input, and every step is one. -/
theorem stepKeepsParameters : Obligations.StepKeepsParameters :=
  fun _ _ h => (transition_of_step h).keeps_params_traceEn

end Sys2Proof.Machine

/-! PROOFS. The statements of the family 10_state.md. -/

namespace Sys2Proof.Machine

section
variable {s t : State} {g : Regs} {a : Addr} {w : Nibble} {att rnd len width : Nat} {q : SeqState}

/-! ### The parts of the invariant -/

theorem LocalError.kind_ne_none (e : LocalError) : e.kind ≠ .none := by
  cases e <;> simp [LocalError.kind]

theorem Regs.polled.poll_le (h : g.polled) : ∀ p, g.poll = some p → p ≤ 10 := by
  obtain ⟨p, hp, -, hle⟩ := h
  intro p' hp'
  cases hp.symm.trans hp'
  exact hle

theorem Regs.roundStart.poll_le (h : g.roundStart rnd) : ∀ p, g.poll = some p → p ≤ 10 := by
  obtain ⟨-, hp⟩ | ⟨-, hp⟩ := h
  · simp [hp]
  · exact hp.poll_le

/-- Before the first data byte DATA is written below 0, that is nowhere. -/
theorem Regs.dataUpTo_zero (hk : g.k = some 0) (hd : g.data = #v[none, none, none]) : g.dataUpTo 0 := by
  refine ⟨hk, ?_⟩
  rw [hd]
  decide

/-- Storing DATA[K] and counting K keeps DATA written exactly below K (rule R150). -/
theorem Regs.dataUpTo.store {k : Nat} (h : g.dataUpTo k) (h3 : k < 3) (v : Byte) :
    Regs.dataUpTo { g with data := g.data.set k (some v), k := some (k + 1) } (k + 1) := by
  refine ⟨rfl, fun i hi => ?_⟩
  simp only [Vector.getElem_set]
  split
  · next hik => simp [hik]
  · next hik => rw [h.2 i hi]; exact decide_eq_decide.mpr (by omega)

/-- Raising an error in any phase of an attempt leaves its registers in the ranges of a failed attempt (rule R209). -/
theorem PhaseOk.failed (h : PhaseOk g len width rnd q) (hq : q ≠ .attFail ∧ q ≠ .attStart) (e : LocalError) :
    Regs.Failed { g with lastErr := some e.kind } len width rnd := by
  have hk := e.kind_ne_none
  cases q
  case hsFlush | hsReset =>
    obtain ⟨hr, -, hp, hs, hd⟩ := h
    exact ⟨hr.le, ⟨_, rfl, hk⟩, hp.poll_le, by simp [hs], .inl hd⟩
  case hsPoll =>
    obtain ⟨hr, -, ⟨p, hp, hlt⟩, hs, hd⟩ := h
    exact ⟨hr.le, ⟨_, rfl, hk⟩, by simp [hp, hlt.le], by simp [hs], .inl hd⟩
  case hsBackoff =>
    obtain ⟨hr, -, hp, hs, hd⟩ := h
    exact ⟨hr.le, ⟨_, rfl, hk⟩, hp.poll_le, by simp [hs], .inl hd⟩
  case cmdSend | cmdEcho =>
    obtain ⟨hr, -, hp, ⟨i, hs, hi⟩, hd⟩ := h
    exact ⟨hr.le, ⟨_, rfl, hk⟩, hp.poll_le, by simp [hs, hi.le], .inl hd⟩
  case dataRead =>
    obtain ⟨hr, -, hp, hs, ⟨k, hkw, hd⟩, hc⟩ := h
    exact ⟨hr.le, ⟨_, rfl, hk⟩, hp.poll_le, by simp [hs], .inr ⟨k, hkw.le, hd, by simp [hc]⟩⟩
  case chkRead =>
    obtain ⟨hr, -, hp, hs, hd, hc⟩ := h
    exact ⟨hr.le, ⟨_, rfl, hk⟩, hp.poll_le, by simp [hs], .inr ⟨width, le_rfl, hd, fun _ => rfl⟩⟩
  case attFail => exact absurd rfl hq.1
  case attStart => exact absurd rfl hq.2
  case idle | unused => exact h.elim

/-! ### The invariant, read and rebuilt -/

theorem State.Inv.regs_of_idle (h : s.Inv) (hs : s.st = .idle) : s.regs = Regs.unwritten := by
  obtain ⟨-, hu⟩ | ⟨a, w, att, hp⟩ := h
  · exact hu
  · obtain ⟨hst, -⟩ | ⟨-, -, -, rnd, -, hph⟩ := hp.phase
    · cases hs.symm.trans hst
    · rw [hs] at hph; exact hph.elim

theorem State.Inv.readInProgress (h : s.Inv) (hs : s.st ≠ .idle) : ∃ a w att, ReadInProgress s a w att := by
  obtain ⟨hst, -⟩ | h := h
  · exact absurd hst hs
  · exact h

/-- A READ in an attempt: its command is loaded, and RND is `rnd`. -/
structure Attempt (s : State) (a : Addr) (w : Nibble) (att rnd : Nat) : Prop extends ReadInProgress s a w att where
  cmd : s.regs.cmd = loadCmd (encodeCmd a w.toNat)
  cmdLen : s.regs.cmdLen = some (encodeCmd a w.toNat).length
  rnd : s.regs.rnd = some rnd

/-- Outside IDLE and ATT_START the invariant is an attempt in the phase of the sequencer state. -/
theorem State.Inv.attempt (h : s.Inv) (hs : s.st = q) (hq : q ≠ .idle ∧ q ≠ .attStart) :
    ∃ a w att rnd, Attempt s a w att rnd ∧ PhaseOk s.regs (encodeCmd a w.toNat).length w.toNat rnd q := by
  subst hs
  obtain ⟨a, w, att, hp⟩ := h.readInProgress hq.1
  obtain ⟨hst, -⟩ | ⟨-, hc, hl, rnd, hr, hph⟩ := hp.phase
  · exact absurd hst hq.2
  · exact ⟨a, w, att, rnd, ⟨hp, hc, hl, hr⟩, hph⟩

/-- The registers that stand still through an attempt: the request, ATT, and the command. -/
def Regs.command (g : Regs) : Option Addr × Option Nibble × Option Nat × Vector (Option Byte) 5 × Option Nat :=
  (g.reqAddr, g.reqWidth, g.att, g.cmd, g.cmdLen)

/-- A step within an attempt that leaves the request and the command alone meets the invariant again if its registers `g`
are those of the phase `q` it goes to. -/
theorem Attempt.inv_of_phase (h : Attempt s a w att rnd) {rnd' : Nat} (ho : t.ch.isOpen = s.ch.isOpen) (hg : t.regs = g)
    (hst : t.st = q) (hq : q ≠ .attStart) (hc : g.command = s.regs.command) (hr : g.rnd = some rnd')
    (hp : PhaseOk g (encodeCmd a w.toNat).length w.toNat rnd' q) : t.Inv := by
  subst hg hst
  simp only [Regs.command, Prod.mk.injEq] at hc
  obtain ⟨ha, hw, hn, hcmd, hlen⟩ := hc
  exact .inr ⟨a, w, att, ho.trans h.isOpen, ha.trans h.reqAddr, hw.trans h.reqWidth, h.width, hn.trans h.failed, h.budget,
    .inr ⟨fun hs => absurd hs hq, hcmd.trans h.cmd, hlen.trans h.cmdLen, rnd', hr, hp⟩⟩

/-! ### Every transition keeps the invariant -/

/-- No transition opens or closes the channel. -/
theorem Transition.keeps_isOpen (h : Transition s t) : t.ch.isOpen = s.ch.isOpen := by
  cases h <;> simp

/-- ATT_START begins an attempt: the command is built from the request and the registers of the last attempt are
unwritten (rule R157). -/
theorem ReadInProgress.inv_of_startAttempt (h : ReadInProgress s a w att) (ho : t.ch.isOpen = s.ch.isOpen)
    (hst : t.st = .hsFlush) (hg : t.regs = s.regs.startAttempt (encodeCmd a w.toNat)) : t.Inv := by
  refine .inr ⟨a, w, att, ho.trans h.isOpen, hg ▸ h.reqAddr, hg ▸ h.reqWidth, h.width, hg ▸ h.failed, h.budget,
    .inr ⟨by simp [hst], by rw [hg]; rfl, by rw [hg]; rfl, 0, by rw [hg]; rfl, ?_⟩⟩
  rw [hg, hst]
  exact ⟨by decide, rfl, .inl ⟨rfl, rfl⟩, rfl, rfl, rfl, rfl⟩

/-- A failed attempt that was not the last is counted, and ATT_START is entered again (rules R155, R211). -/
theorem Attempt.inv_of_retried (h : Attempt s a w att rnd) (ho : t.ch.isOpen = s.ch.isOpen) (hst : t.st = .attStart)
    (hg : t.regs = { s.regs with att := some (att + 1) }) (hlt : att + 1 ≠ 50)
    (hf : s.regs.Failed (encodeCmd a w.toNat).length w.toNat rnd) : t.Inv := by
  have hb := h.budget
  refine .inr ⟨a, w, att + 1, ho.trans h.isOpen, hg ▸ h.reqAddr, hg ▸ h.reqWidth, h.width, hg ▸ rfl, by omega,
    .inr ⟨fun _ => att.succ_pos, hg ▸ h.cmd, hg ▸ h.cmdLen, rnd, hg ▸ h.rnd, ?_⟩⟩
  rw [hg, hst]
  exact ⟨hf.rnd, hf.lastErr, hf.poll, hf.seq, hf.data⟩

/-- Raising an error in a phase of an attempt meets the invariant. -/
theorem State.Inv.raise_inv (hi : s.Inv) (hs : s.st = q) (hq : q ≠ .idle ∧ q ≠ .attStart ∧ q ≠ .attFail)
    {e : LocalError} (ho : t.ch.isOpen = s.ch.isOpen) (hg : t.regs = s.regs) : (t.raise e).Inv := by
  obtain ⟨hidle, hstart, hfail⟩ := hq
  obtain ⟨a, w, att, rnd, hA, hp⟩ := hi.attempt hs ⟨hidle, hstart⟩
  exact hA.inv_of_phase (g := { s.regs with lastErr := some e.kind }) (by simp [ho]) (by simp [hg]) (State.raise_st t e)
    (by decide) rfl hA.rnd (hp.failed ⟨hfail, hstart⟩ e)

/-- One poll: POLL counts it, and READY opens the command, BUSY stays below the tenth poll, anything else ends the round
(rules R113 to R117). -/
theorem State.Inv.of_polled (hi : s.Inv) (hs : s.st = .hsPoll) {p : Nat} (hp : s.regs.poll = some p)
    (ho : t.ch.isOpen = s.ch.isOpen) (hst : t.st = q) (hg : t.regs = g)
    (hcase : (q = .cmdSend ∧ g = { s.regs with poll := some (p + 1), seq := some 0 }) ∨
      (q = .hsPoll ∧ p + 1 < 10 ∧ g = { s.regs with poll := some (p + 1) }) ∨
      (q = .hsBackoff ∧ g = { s.regs with poll := some (p + 1) })) : t.Inv := by
  obtain ⟨a, w, att, rnd, hA, hr, hl, ⟨p', hp', hlt⟩, hseq, hd⟩ := hi.attempt hs (by decide)
  cases hp'.symm.trans hp
  have hlen : 0 < (encodeCmd a w.toNat).length := by rw [encodeCmd_length]; split <;> decide
  obtain ⟨rfl, rfl⟩ | ⟨rfl, h10, rfl⟩ | ⟨rfl, rfl⟩ := hcase
  · exact hA.inv_of_phase ho hg hst (by decide) rfl hA.rnd
      ⟨hr, hl, ⟨p + 1, rfl, by omega, by omega⟩, ⟨0, rfl, hlen⟩, hd⟩
  · exact hA.inv_of_phase ho hg hst (by decide) rfl hA.rnd ⟨hr, hl, ⟨p + 1, rfl, h10⟩, hseq, hd⟩
  · exact hA.inv_of_phase ho hg hst (by decide) rfl hA.rnd ⟨hr, hl, ⟨p + 1, rfl, by omega, by omega⟩, hseq, hd⟩

/-- A matching echo goes to the next command byte, or after the last one to the data (rule R138). -/
theorem State.Inv.of_echoed (hi : s.Inv) (hs : s.st = .cmdEcho) {i n : Nat} (hseq : s.regs.seq = some i)
    (hlen : s.regs.cmdLen = some n) (ho : t.ch.isOpen = s.ch.isOpen) (hst : t.st = q) (hg : t.regs = g)
    (hcase : (i + 1 = n ∧ q = .dataRead ∧ g = { s.regs with seq := some (i + 1), k := some 0 }) ∨
      (i + 1 ≠ n ∧ q = .cmdSend ∧ g = { s.regs with seq := some (i + 1) })) : t.Inv := by
  obtain ⟨a, w, att, rnd, hA, hr, hl, hp, ⟨i', hseq', hlt⟩, hk, hd, hc⟩ := hi.attempt hs (by decide)
  cases hseq'.symm.trans hseq
  cases hA.cmdLen.symm.trans hlen
  obtain ⟨hlast, rfl, rfl⟩ | ⟨hmore, rfl, rfl⟩ := hcase
  · exact hA.inv_of_phase ho hg hst (by decide) rfl hA.rnd
      ⟨hr, hl, hp, congrArg some hlast, ⟨0, hA.width.1, Regs.dataUpTo_zero rfl hd⟩, hc⟩
  · exact hA.inv_of_phase ho hg hst (by decide) rfl hA.rnd ⟨hr, hl, hp, ⟨i + 1, rfl, by omega⟩, hk, hd, hc⟩

/-- A data byte is stored at K, and the last one is followed by the checksum (rule R150). -/
theorem State.Inv.of_dataStored (hi : s.Inv) (hs : s.st = .dataRead) {k : Nat} (hk : s.regs.k = some k) (h3 : k < 3)
    (hw : s.regs.reqWidth = some w) {v : Byte} (ho : t.ch.isOpen = s.ch.isOpen)
    (hst : t.st = if k + 1 = w.toNat then .chkRead else .dataRead)
    (hg : t.regs = { s.regs with data := s.regs.data.set k (some v), k := some (k + 1) }) : t.Inv := by
  obtain ⟨a, w', att, rnd, hA, hr, hl, hp, hseq, ⟨k', hkw, hd⟩, hc⟩ := hi.attempt hs (by decide)
  cases hd.1.symm.trans hk
  cases hA.reqWidth.symm.trans hw
  have hd' := hd.store h3 v
  split at hst
  · next hlast =>
    exact hA.inv_of_phase ho hg hst (by decide) rfl hA.rnd ⟨hr, hl, hp, hseq, hlast ▸ hd', hc⟩
  · next hmore =>
    exact hA.inv_of_phase ho hg hst (by decide) rfl hA.rnd ⟨hr, hl, hp, hseq, ⟨k + 1, by omega, hd'⟩, hc⟩

/-- The invariant is kept by every transition. -/
theorem Transition.keeps_inv (h : Transition s t) (hi : s.Inv) : t.Inv := by
  have ho := h.keeps_isOpen
  cases h with
  | blockReset => exact .inl ⟨rfl, rfl⟩
  | waiting => exact hi
  | @readStart _ _ n a hs _ hl hopen =>
    exact .inr ⟨a, n, 0, ho.trans hopen, by simp, by simp, legalRead_iff.mp hl, by simp, by decide,
      .inl ⟨rfl, by simp [hi.regs_of_idle hs, Regs.requested]⟩⟩
  | answered hs => exact .inl ⟨by simp [hs], by simp [hi.regs_of_idle hs]⟩
  | attempt hs ha hw =>
    obtain ⟨a, w, att, hR⟩ := hi.readInProgress (by simp [hs])
    cases hR.reqAddr.symm.trans ha
    cases hR.reqWidth.symm.trans hw
    exact hR.inv_of_startAttempt ho (by simp) (by simp)
  | flushed hs =>
    obtain ⟨a, w, att, rnd, hA, hp⟩ := hi.attempt hs (by decide)
    exact hA.inv_of_phase (g := s.regs) (q := .hsReset) ho (by simp) (by simp) (by decide) rfl hA.rnd hp
  | flushFailed hs => exact hi.raise_inv hs (by decide) (by simp) (by simp)
  | resetSent hs =>
    obtain ⟨a, w, att, rnd, hA, hr, hl, -, hseq, hd⟩ := hi.attempt hs (by decide)
    exact hA.inv_of_phase (g := { s.regs with poll := some 0 }) (q := .hsPoll) ho (by simp) (by simp) (by decide) rfl
      hA.rnd ⟨hr, hl, ⟨0, rfl, by decide⟩, hseq, hd⟩
  | resetFailed hs => exact hi.raise_inv hs (by decide) (by simp) (by simp)
  | @polled _ _ _ _ g q hs _ hp _ hg =>
    refine hi.of_polled (g := g) (q := q) hs hp ho (by simp) (by simp) ?_
    obtain ⟨-, hg⟩ | ⟨-, hg⟩ | hg := hg
    · exact .inl hg
    · exact .inr (.inl hg)
    · exact .inr (.inr hg)
  | @backoff n hs hn hlt =>
    obtain ⟨a, w, att, rnd, hA, hr, hl, hp, hseq, hd⟩ := hi.attempt hs (by decide)
    cases hA.rnd.symm.trans hn
    exact hA.inv_of_phase (g := { s.regs with rnd := some (n + 1) }) (q := .hsFlush) ho (by simp) (by simp) (by decide) rfl
      rfl ⟨by omega, hl, .inr ⟨n.succ_pos, hp⟩, hseq, hd⟩
  | @handshakeFailed n hs hn hlt =>
    obtain ⟨a, w, att, rnd, hA, hp⟩ := hi.attempt hs (by decide)
    have hf := hp.failed (by decide) (.handshakeFailed Config.hsRounds)
    exact hA.inv_of_phase (g := { s.regs with rnd := some (n + 1), lastErr := some .handshakeFailed }) (q := .attFail) ho
      (by simp [LocalError.kind]) (by simp) (by decide) rfl rfl ⟨hlt.le, hf.lastErr, hf.poll, hf.seq, hf.data⟩
  | commandSent hs =>
    obtain ⟨a, w, att, rnd, hA, hp⟩ := hi.attempt hs (by decide)
    exact hA.inv_of_phase (g := s.regs) (q := .cmdEcho) ho (by simp) (by simp) (by decide) rfl hA.rnd hp
  | commandFailed hs => exact hi.raise_inv hs (by decide) (by simp) (by simp)
  | @echoed _ _ _ _ _ _ g q hs _ _ hq _ _ hl hg => exact hi.of_echoed (g := g) (q := q) hs hq hl ho (by simp) (by simp) hg
  | readFailed hs =>
    obtain hs | hs | hs := hs
    all_goals exact hi.raise_inv hs (by decide) (by simp) (by simp)
  | @dataStored _ _ v _ _ hs h3 _ _ hk hw => exact hi.of_dataStored (v := v) hs hk h3 hw ho (by simp) (by simp)
  | succeeded => exact .inl ⟨by simp, by simp⟩
  | @checksumMismatched _ _ v err hs =>
    obtain ⟨a, w, att, rnd, hA, hr, -, hp, hseq, hd, -⟩ := hi.attempt hs (by decide)
    exact hA.inv_of_phase (g := { s.regs with chk := some v, lastErr := some err.kind }) (q := .attFail) ho (by simp)
      (by simp) (by decide) rfl hA.rnd ⟨hr.le, ⟨_, rfl, err.kind_ne_none⟩, hp.poll_le, by simp [hseq],
        .inr ⟨w.toNat, le_rfl, hd, fun _ => rfl⟩⟩
  | retried hs hn hlt =>
    obtain ⟨a, w, att, rnd, hA, hf⟩ := hi.attempt hs (by decide)
    cases hA.failed.symm.trans hn
    exact hA.inv_of_retried ho (by simp) (by simp) hlt hf
  | exhausted => exact .inl ⟨by simp, by simp⟩

end

/-- Settles O12: every step is a transition, and each transition keeps the invariant. -/
theorem stepKeepsInvariant : Obligations.StepKeepsInvariant :=
  fun _ _ hi h => (transition_of_step h).keeps_inv hi

section
variable {s t : State}

/-! ### Responses -/

/-- Only a host operation answered in IDLE and the two ends of a READ deliver a response, and all three leave IDLE with
every register unwritten (rules R34, R154). -/
theorem Transition.unwritten_of_response (h : Transition s t) (hi : s.Inv) (hne : t.responses ≠ s.responses) :
    t.st = .idle ∧ t.regs = Regs.unwritten := by
  cases h with
  | answered hs => exact ⟨by simp [hs], by simp [hi.regs_of_idle hs]⟩
  | succeeded | exhausted => exact ⟨by simp, by simp⟩
  | _ => exact absurd (by simp) hne

end

/-- Settles O14: of the transitions, those that change the responses end in IDLE with every register unwritten. -/
theorem responseLeavesAllUnwritten : Obligations.ResponseLeavesAllUnwritten :=
  fun _ _ hi h hne => (transition_of_step h).unwritten_of_response hi hne

section
variable {s t : State}

/-! ### Progress: where a step answers a next state -/

theorem hostOp_progress {legal : Bool} {k : Result} (hs : s.st = .idle) (hk : legal = true → ∃ t, k = .next t) :
    ∃ t, hostOp legal s k = .next t := by
  cases legal with
  | true =>
    obtain ⟨t, ht⟩ := hk rfl
    exact ⟨t, hostOp_next.mpr ⟨hs, .inl ⟨rfl, ht⟩⟩⟩
  | false => exact ⟨_, hostOp_next.mpr ⟨hs, .inr ⟨rfl, rfl⟩⟩⟩

/-- A pure host operation is answered at once, with a channel or without (rules R132, R153, R170). -/
theorem execPure_progress {i : Instr} (hi : i.standsAt .request = true) (hr : ∀ n a, i ≠ .read n a) (hs : s.st = .idle) :
    ∃ t, exec i s = .next t := by
  cases i <;> simp [Instr.standsAt] at hi
  case read n a => exact absurd rfl (hr n a)
  all_goals exact hostOp_progress hs fun _ => ⟨_, rfl⟩

/-- READ in IDLE is answered unless it is legal and the channel is closed (rules R156, R219). -/
theorem execRead_progress (n : Nibble) (a : Addr) (hs : s.st = .idle) :
    (∃ t, execRead n a s = .next t) ∨
      (execRead n a s = .fault .noOpenChannel ∧ legalRead n = true ∧ s.ch.isOpen = false) := by
  cases hl : legalRead n with
  | false => exact .inl ⟨_, execRead_next.mpr ⟨hs, .inr ⟨hl, rfl⟩⟩⟩
  | true =>
    cases ho : s.ch.isOpen with
    | true => exact .inl ⟨_, execRead_next.mpr ⟨hs, .inl ⟨hl, ho, rfl⟩⟩⟩
    | false => exact .inr ⟨by simp [execRead, hostOp, hs, hl, ho], rfl, rfl⟩

/-- IDLE runs the instruction that the request at the head of the queue decodes to (rule R80). -/
theorem idleStep_of_decode {w : RequestWord} {rest : List RequestWord} {i : Instr} (hq : s.requests = w :: rest)
    (hd : decode .request (.request w) = .ok i) : idleStep s = exec i { s with requests := rest } := by
  simp [idleStep, hq, hd]

/-- IDLE refuses a word that is no instruction (rule R83). -/
theorem idleStep_of_error {w : RequestWord} {rest : List RequestWord} {e : DecodeError} (hq : s.requests = w :: rest)
    (hd : decode .request (.request w) = .error e) :
    idleStep s = .next (State.deliver refusal { s with requests := rest }) := by
  simp [idleStep, hq, hd]

/-- IDLE answers a next state unless the request at the head of the queue is a legal READ and the channel is closed. -/
theorem idleStep_progress (hs : s.st = .idle) :
    (∃ t, idleStep s = .next t) ∨
      (idleStep s = .fault .noOpenChannel ∧ s.ch.isOpen = false ∧ ∃ w rest n a, s.requests = w :: rest ∧
        decode .request (.request w) = .ok (.read n a) ∧ legalRead n = true) := by
  cases hq : s.requests with
  | nil => exact .inl ⟨s, by simp [idleStep, hq]⟩
  | cons w rest =>
    cases hd : decode .request (.request w) with
    | error e => exact .inl ⟨_, idleStep_of_error hq hd⟩
    | ok i =>
      have hst : State.st { s with requests := rest } = .idle := hs
      rw [idleStep_of_decode hq hd]
      by_cases hr : ∀ n a, i ≠ .read n a
      · exact .inl (execPure_progress (standsAt_of_decodeRequest hd) hr hst)
      · simp only [ne_eq, not_forall, not_not] at hr
        obtain ⟨n, a, rfl⟩ := hr
        obtain ht | ⟨hf, hl, ho⟩ := execRead_progress n a hst
        · exact .inl ht
        · exact .inr ⟨hf, ho, w, rest, n, a, rfl, hd, hl⟩

theorem chFlush_progress {k : IoResult → State → Result} (ho : s.ch.isOpen = true)
    (hk : ∀ r rest, ∃ t, k r (s.flushed r rest) = .next t) : ∃ t, chFlush s k = .next t := by
  cases hf : s.ch.flushes with
  | nil => exact ⟨s, chFlush_next.mpr ⟨ho, .inl ⟨hf, rfl⟩⟩⟩
  | cons r rest =>
    obtain ⟨t, ht⟩ := hk r rest
    exact ⟨t, chFlush_next.mpr ⟨ho, .inr ⟨r, rest, hf, ht⟩⟩⟩

theorem chWrite_progress {b : Byte} {k : IoResult → State → Result} (ho : s.ch.isOpen = true)
    (hk : ∀ r rest, ∃ t, k r (s.written b r rest) = .next t) : ∃ t, chWrite b s k = .next t := by
  cases hf : s.ch.writes with
  | nil => exact ⟨s, chWrite_next.mpr ⟨ho, .inl ⟨hf, rfl⟩⟩⟩
  | cons r rest =>
    obtain ⟨t, ht⟩ := hk r rest
    exact ⟨t, chWrite_next.mpr ⟨ho, .inr ⟨r, rest, hf, ht⟩⟩⟩

/-- A reading state answers if both of its continuations do: `kb` on a byte and `kn` on none. -/
theorem chRead_progress {kb : Byte → State → Result} {kn : RdResult → State → Result} (ho : s.ch.isOpen = true)
    (hb : ∀ v e rest, ∃ t, kb v (s.readAt e rest) = .next t) (hn : ∀ r e rest, ∃ t, kn r (s.readAt e rest) = .next t) :
    ∃ t, (chRead s fun r u => match r with | .byte v => kb v u | r => kn r u) = .next t := by
  cases hr : s.ch.reads with
  | nil => exact ⟨s, chRead_next.mpr ⟨ho, .inl ⟨hr, rfl⟩⟩⟩
  | cons e rest =>
    have hk : ∃ t, (match (readFrom s.ch.rxBuf e).1 with
        | .byte v => kb v (s.readAt e rest) | r => kn r (s.readAt e rest)) = .next t := by
      cases (readFrom s.ch.rxBuf e).1 with
      | byte v => exact hb v e rest
      | timeout | ioerr => exact hn _ e rest
    obtain ⟨t, ht⟩ := hk
    exact ⟨t, chRead_next.mpr ⟨ho, .inr ⟨e, rest, hr, ht⟩⟩⟩

theorem hsFlush_progress (ho : s.ch.isOpen = true) : ∃ t, hsFlush s = .next t :=
  chFlush_progress ho fun r _ => by cases r <;> exact ⟨_, rfl⟩

theorem hsReset_progress (ho : s.ch.isOpen = true) : ∃ t, hsReset s = .next t :=
  chWrite_progress ho fun r _ => by cases r <;> exact ⟨_, rfl⟩

theorem cmdSend_progress {q : Nat} {b : Byte} (hq : s.regs.seq = some q) (hb : s.regs.cmdAt q = some b)
    (ho : s.ch.isOpen = true) : ∃ t, cmdSend s = .next t := by
  simp only [cmdSend, hq, hb, need_some]
  exact chWrite_progress ho fun r _ => by cases r <;> exact ⟨_, rfl⟩

theorem pollByte_progress {p : Nat} (hp : s.regs.poll = some p) (v : Byte) : ∃ t, pollByte v s = .next t := by
  cases hc : cls v with
  | ready => exact ⟨_, pollByte_next.mpr ⟨p, _, hp, rfl, .inl ⟨hc, rfl⟩⟩⟩
  | other => exact ⟨_, pollByte_next.mpr ⟨p, _, hp, rfl, .inr (.inr ⟨.inr hc, rfl⟩)⟩⟩
  | busy =>
    obtain hlt | hle := Nat.lt_or_ge (p + 1) 10
    · exact ⟨_, pollByte_next.mpr ⟨p, _, hp, rfl, .inr (.inl ⟨hc, hlt, rfl⟩)⟩⟩
    · exact ⟨_, pollByte_next.mpr ⟨p, _, hp, rfl, .inr (.inr ⟨.inl ⟨hc, hle⟩, rfl⟩)⟩⟩

theorem hsBackoff_progress {n : Nat} (hn : s.regs.rnd = some n) : ∃ t, hsBackoff s = .next t := by
  by_cases h : n + 1 = Config.hsRounds
  · exact ⟨_, hsBackoff_next.mpr ⟨n, _, hn, rfl, .inl ⟨h, rfl⟩⟩⟩
  · exact ⟨_, hsBackoff_next.mpr ⟨n, _, hn, rfl, .inr ⟨h, rfl⟩⟩⟩

theorem echoByte_progress {q len : Nat} {b : Byte} (hq : s.regs.seq = some q) (hb : s.regs.cmdAt q = some b)
    (hl : s.regs.cmdLen = some len) (v : Byte) : ∃ t, echoByte v s = .next t := by
  by_cases he : expectedEcho s.params q b = some v
  · by_cases hn : q + 1 = len
    · exact ⟨_, echoByte_next.mpr ⟨q, b, _, hq, hb, rfl, .inl ⟨he, len, hl, .inl ⟨hn, rfl⟩⟩⟩⟩
    · exact ⟨_, echoByte_next.mpr ⟨q, b, _, hq, hb, rfl, .inl ⟨he, len, hl, .inr ⟨hn, rfl⟩⟩⟩⟩
  · exact ⟨_, echoByte_next.mpr ⟨q, b, _, hq, hb, rfl, .inr ⟨he, rfl⟩⟩⟩

theorem chkByte_progress {w : Nibble} {d : List Byte} {n : Nat} (hw : s.regs.reqWidth = some w)
    (hd : dataBytes s.regs.data w.toNat = some d) (hn : s.regs.att = some n) (c : Byte) : ∃ t, chkByte c s = .next t := by
  by_cases hc : checksum d = c
  · exact ⟨_, chkByte_next.mpr ⟨w, d, _, hw, hd, rfl, .inl ⟨hc, n, hn, rfl⟩⟩⟩
  · exact ⟨_, chkByte_next.mpr ⟨w, d, _, hw, hd, rfl, .inr ⟨hc, rfl⟩⟩⟩

theorem attFail_progress {n : Nat} (hn : s.regs.att = some n) : ∃ t, attFail s = .next t := by
  by_cases h : n + 1 = Config.readAttempts
  · exact ⟨_, attFail_next.mpr ⟨n, _, hn, rfl, .inl ⟨h, rfl⟩⟩⟩
  · exact ⟨_, attFail_next.mpr ⟨n, _, hn, rfl, .inr ⟨h, rfl⟩⟩⟩

/-- In an attempt every command byte below CMD_LEN is written (rule R24). -/
theorem Attempt.cmdAt_isSome {a : Addr} {w : Nibble} {att rnd q : Nat} (h : Attempt s a w att rnd)
    (hq : q < (encodeCmd a w.toNat).length) : ∃ b, s.regs.cmdAt q = some b := by
  have h5 : (encodeCmd a w.toNat).length ≤ 5 := by rw [encodeCmd_length]; split <;> decide
  refine ⟨(encodeCmd a w.toNat)[q], ?_⟩
  rw [Regs.cmdAt, h.cmd, cmdAt_loadCmd (by omega), List.getElem?_eq_getElem hq]

/-- Under the invariant a step of a READ always answers a next state: every register it reads is written, the channel is
open, and DATA[K] exists (rules R21, R34). -/
theorem State.Inv.read_progress (hi : s.Inv) (hr : s.resetIn = false) (hs : s.st ≠ .idle) : ∃ t, step s = .next t := by
  obtain ⟨a, w, att, hR⟩ := hi.readInProgress hs
  have ho := hR.isOpen
  cases hst : s.st
  case idle => exact absurd hst hs
  case attStart =>
    rw [step_attStart hr hst]
    exact ⟨_, attStart_next.mpr ⟨a, w, hR.reqAddr, hR.reqWidth, rfl⟩⟩
  case hsFlush => rw [step_hsFlush hr hst]; exact hsFlush_progress ho
  case hsReset => rw [step_hsReset hr hst]; exact hsReset_progress ho
  case hsPoll =>
    obtain ⟨_, _, _, _, -, -, -, ⟨p, hp, -⟩, -⟩ := hi.attempt hst (by decide)
    rw [step_hsPoll hr hst]
    exact chRead_progress ho (fun v e rest => pollByte_progress (s := s.readAt e rest) hp v)
      fun _ _ _ => ⟨_, pollNoByte_next.mpr ⟨p, hp, rfl⟩⟩
  case hsBackoff =>
    obtain ⟨_, _, _, _, hA, -⟩ := hi.attempt hst (by decide)
    rw [step_hsBackoff hr hst]
    exact hsBackoff_progress hA.rnd
  case cmdSend =>
    obtain ⟨_, _, _, _, hA, -, -, -, ⟨q, hq, hlt⟩, -⟩ := hi.attempt hst (by decide)
    obtain ⟨b, hb⟩ := hA.cmdAt_isSome hlt
    rw [step_cmdSend hr hst]
    exact cmdSend_progress hq hb ho
  case cmdEcho =>
    obtain ⟨_, _, _, _, hA, -, -, -, ⟨q, hq, hlt⟩, -⟩ := hi.attempt hst (by decide)
    obtain ⟨b, hb⟩ := hA.cmdAt_isSome hlt
    rw [step_cmdEcho hr hst]
    exact chRead_progress ho (fun v e rest => echoByte_progress (s := s.readAt e rest) hq hb hA.cmdLen v)
      fun _ _ _ => ⟨_, echoNoByte_next.mpr ⟨q, hq, rfl⟩⟩
  case dataRead =>
    obtain ⟨_, w, _, _, hA, -, -, -, -, ⟨k, hlt, hk, -⟩, -⟩ := hi.attempt hst (by decide)
    have h3 : k < 3 := lt_of_lt_of_le hlt hA.width.2
    rw [step_dataRead hr hst]
    exact chRead_progress ho (fun _ _ _ => ⟨_, dataByte_next.mpr ⟨k, w, _, h3, hk, hA.reqWidth, rfl, rfl⟩⟩)
      fun _ _ _ => ⟨_, dataNoByte_next.mpr ⟨k, hk, rfl⟩⟩
  case chkRead =>
    obtain ⟨_, w, _, _, hA, -, -, -, -, ⟨-, hd⟩, -⟩ := hi.attempt hst (by decide)
    obtain ⟨d, hd, -⟩ := dataBytes_isSome hA.width.2 fun i h3 hlt => (hd i h3).trans (decide_eq_true hlt)
    rw [step_chkRead hr hst]
    exact chRead_progress ho (fun v e rest => chkByte_progress (s := s.readAt e rest) hA.reqWidth hd hA.failed v)
      fun _ _ _ => ⟨_, rfl⟩
  case attFail => rw [step_attFail hr hst]; exact attFail_progress hR.failed
  case unused =>
    obtain ⟨_, _, _, _, -, hp⟩ := hi.attempt hst (by simp)
    exact hp.elim

end

/-- Settles O13: a READ in progress always answers, and IDLE stops only at a legal READ with the channel closed. -/
theorem onlyReadWithoutChannelStops : Obligations.OnlyReadWithoutChannelStops := by
  intro s hi
  cases hr : s.resetIn with
  | true => exact .inl ⟨s.takeReset, by simp [step, hr]⟩
  | false =>
    by_cases hs : s.st = .idle
    · rw [step_idle hr hs]
      obtain ht | ⟨hf, ho, w, rest, n, a, hq, hd, hl⟩ := idleStep_progress hs
      · exact .inl ht
      · exact .inr ⟨hf, hs, rfl, ho, w, rest, n, a, hq, hd, legalRead_iff.mp hl⟩
    · exact .inl (hi.read_progress hr hs)

section
variable {s t : State} {bs older : List Byte} {v : Byte}

/-! ### The receive buffer -/

/-- A flush that succeeds empties the receive buffer (rules R40, R69). -/
theorem hsFlush_ok {rest : List IoResult} (hr : s.resetIn = false) (hs : s.st = .hsFlush)
    (hf : s.ch.flushes = .ok :: rest) (h : step s = .next t) :
    t.resetIn = false ∧ t.st = .hsReset ∧ t.ch.rxBuf = [] := by
  rw [step_hsFlush hr hs, hsFlush_next] at h
  obtain ⟨-, ⟨hb, -⟩ | ⟨_, -, rfl⟩ | ⟨_, hb, -⟩⟩ := h
  · cases hb.symm.trans hf
  · simp [hr, State.flushed_ok_ch]
  · cases hb.symm.trans hf

/-- The reset byte's write leaves the receive buffer alone (rule R112). -/
theorem hsReset_ok {rest : List IoResult} (hr : s.resetIn = false) (hs : s.st = .hsReset)
    (hf : s.ch.writes = .ok :: rest) (h : step s = .next t) : t.st = .hsPoll ∧ t.ch.rxBuf = s.ch.rxBuf := by
  rw [step_hsReset hr hs, hsReset_next] at h
  obtain ⟨-, ⟨hb, -⟩ | ⟨_, _, -, rfl, rfl⟩ | ⟨_, hb, -⟩⟩ := h
  · cases hb.symm.trans hf
  · simp
  · cases hb.symm.trans hf

/-- A command byte's write leaves the receive buffer, the reads to come, the registers and the parameters alone
(rule R136). -/
theorem cmdSend_ok {rest : List IoResult} (hr : s.resetIn = false) (hs : s.st = .cmdSend)
    (hf : s.ch.writes = .ok :: rest) (h : step s = .next t) :
    t.resetIn = false ∧ t.st = .cmdEcho ∧ t.ch.rxBuf = s.ch.rxBuf ∧ t.ch.reads = s.ch.reads ∧ t.regs = s.regs ∧
      t.params = s.params := by
  rw [step_cmdSend hr hs, cmdSend_next] at h
  obtain ⟨_, _, -, -, -, ⟨hb, -⟩ | ⟨_, -, rfl⟩ | ⟨_, hb, -⟩⟩ := h
  · cases hb.symm.trans hf
  · simp [hr]
  · cases hb.symm.trans hf

theorem readFrom_nonempty (v : Byte) (older bs : List Byte) :
    readFrom (v :: older) (.arrived bs) = (.byte v, older ++ bs) :=
  readFrom_arrived _ _ _ _ rfl

/-- Judging an echo touches no part of the channel, and raises EchoMismatch if the byte is not the expected one. -/
theorem echoByte_judged (h : echoByte v s = .next t) : t.ch = s.ch ∧
    ∀ q c, s.regs.seq = some q → s.regs.cmdAt q = some c → expectedEcho s.params q c ≠ some v →
      t.st = .attFail ∧ t.regs.lastErr = some .echoMismatch := by
  obtain ⟨q, c, _, hq, hc, rfl, h⟩ := echoByte_next.mp h
  obtain ⟨he, _, -, h⟩ | ⟨-, rfl⟩ := h
  · refine ⟨?_, fun q' c' hq' hc' hne => ?_⟩
    · obtain ⟨-, rfl⟩ | ⟨-, rfl⟩ := h
      all_goals simp
    · cases hq.symm.trans hq'
      cases hc.symm.trans hc'
      exact absurd he hne
  · simp [LocalError.kind]

/-- In CMD_ECHO the oldest byte of the buffer is the one judged, whatever arrives (decision D34). -/
theorem step_cmdEcho_buffered {rest : List RdEvent} (hr : s.resetIn = false) (hs : s.st = .cmdEcho)
    (hbuf : s.ch.rxBuf = v :: older) (hrd : s.ch.reads = .arrived bs :: rest) (h : step s = .next t) :
    echoByte v (s.readAt (.arrived bs) rest) = .next t := by
  have hread : readFrom s.ch.rxBuf (.arrived bs) = (.byte v, older ++ bs) := by rw [hbuf]; exact readFrom_nonempty ..
  obtain ⟨-, ⟨hb, -⟩ | ⟨e, rest', hrd', h⟩⟩ := step_cmdEcho_next hr hs h
  · cases hb.symm.trans hrd
  · cases hrd'.symm.trans hrd
    rw [hread] at h
    obtain ⟨v', hv, h⟩ | ⟨hv, -⟩ | ⟨hv, -⟩ := h
    · simp only [RdResult.byte.injEq] at hv
      rw [hv]
      exact h
    · cases hv
    · cases hv

end

/-- Settles O36: a flush empties the buffer and the reset byte's write leaves it empty; a read takes the oldest byte; and a
command byte's write leaves the waiting byte to be judged as its echo. -/
theorem flushDiscardsStaleBytes : Obligations.FlushDiscardsStaleBytes := by
  refine ⟨?_, ?_, ?_⟩
  · intro s t u rest bs more b w hr hs _ hf hst hw _ htu
    obtain ⟨htr, hts, hbuf⟩ := hsFlush_ok hr hs hf hst
    obtain ⟨hus, hubuf⟩ := hsReset_ok htr hts hw htu
    rw [hubuf, hbuf]
    exact ⟨hus, by cases bs <;> rfl, rfl⟩
  · intro s v older bs rest k ho hbuf hrd
    have hread : readFrom s.ch.rxBuf (.arrived bs) = (.byte v, older ++ bs) := by rw [hbuf]; exact readFrom_nonempty ..
    exact ⟨hread, by simp [chRead, ho, hrd, State.readAt, hread]⟩
  · intro s t u v older bs rest w hr hs hbuf hw hrd hst htu
    obtain ⟨htr, hts, htbuf, htrd, htregs, htparams⟩ := cmdSend_ok hr hs hw hst
    rw [hbuf] at htbuf
    obtain ⟨hch, hmismatch⟩ := echoByte_judged (step_cmdEcho_buffered htr hts htbuf (htrd.trans hrd) htu)
    simp only [State.readAt_ch, htbuf, readFrom_nonempty] at hch
    rw [State.readAt_regs, State.readAt_params, htregs, htparams] at hmismatch
    exact ⟨hts, by rw [hch], by rw [hch], hmismatch⟩

/-- Settles O9: `State.reset` is written out so. -/
theorem resetLeavesAllUnwritten : Obligations.ResetLeavesAllUnwritten := by
  unfold Obligations.ResetLeavesAllUnwritten
  decide

/-- Settles O11: reset is IDLE with every register unwritten, the invariant's first case. -/
theorem resetMeetsInvariant : Obligations.ResetMeetsInvariant :=
  .inl ⟨rfl, rfl⟩

/-- In a state that makes no read a byte from the console joins the receive buffer (rules R40, R248). -/
theorem receiveByte_buffers {s : State} (v : Byte)
    (h : s.st = .idle ∨ s.st = .attStart ∨ s.st = .hsFlush ∨ s.st = .hsReset ∨ s.st = .hsBackoff ∨ s.st = .cmdSend ∨
      s.st = .attFail) : receiveByte v s = .next (s.buffered v) := by
  rcases h with h | h | h | h | h | h | h <;> simp [receiveByte, h]

/-- Settles O52: each console-to-block symbol is the receipt of its byte. -/
theorem unreadBytesAreBuffered : Obligations.UnreadBytesAreBuffered := by
  intro s i v hv hi hs
  have hrec : exec i s = receiveByte v s := by
    rcases hi with rfl | rfl | ⟨_, rfl⟩ | ⟨_, _, rfl⟩ | ⟨_, rfl⟩ | ⟨_, rfl⟩ | ⟨_, rfl⟩
    all_goals cases hv; rfl
  rw [hrec, receiveByte_buffers v hs]
  rfl

end Sys2Proof.Machine

/-! PROOFS. The statements of the family 20_memory.md. -/

namespace Sys2Proof.Machine

/-- A transition notes one operation or wait in the transcript, or nothing (rules R68, R213). -/
theorem Transition.log_grows {s t : State} (h : Transition s t) :
    t.ch.log = s.ch.log ∨ ∃ tok, t.ch.log = tok :: s.ch.log := by
  cases h
  case blockReset | waiting => exact .inl rfl
  case readStart | answered | attempt | retried | exhausted => exact .inl (by simp)
  case flushed | flushFailed => exact .inr (by simp)
  case resetSent | resetFailed | commandSent | commandFailed => exact .inr (by simp)
  case polled | echoed | readFailed | dataStored | succeeded | checksumMismatched => exact .inr (by simp)
  case backoff | handshakeFailed => exact .inr (by simp)

/-- Settles O54: every step is a transition, and each transition makes at most one entry. -/
theorem oneChannelOperationPerStep : Obligations.OneChannelOperationPerStep :=
  fun _ _ h => (transition_of_step h).log_grows

/-- The decoder families fix a width from 1 to 3 for each region, and both readings of the wind direction do (rule R54). -/
theorem regionWidth_range (r : Config.Region) : 1 ≤ (regionWidth r).toNat ∧ (regionWidth r).toNat ≤ 3 := by
  cases r
  case windDirection =>
    simp only [regionWidth]
    split <;> decide
  all_goals decide

/-- Settles O34: the width of a region is in range, so its READ is legal whatever its address is. -/
theorem namedReadsAreAccepted : Obligations.NamedReadsAreAccepted := by
  intro r s hs ho
  have hw := regionWidth_range r
  exact ⟨decide_eq_true hw, _, execRead_next.mpr ⟨hs, .inl ⟨legalRead_iff.mpr hw, ho, rfl⟩⟩, by simp⟩

end Sys2Proof.Machine

/-! PROOFS. The statements of the family 30_encoding.md. -/

namespace Sys2Proof

/-! ### Decode after encode -/

@[simp] theorem echoAddrByte_top (s : BitVec 2) (n : Nibble) : (echoAddrByte s n).extractLsb' 6 2 = 0 := by
  revert s n; decide
@[simp] theorem echoAddrByte_seq (s : BitVec 2) (n : Nibble) : (echoAddrByte s n).extractLsb' 4 2 = s := by
  revert s n; decide
@[simp] theorem lo_echoAddrByte (s : BitVec 2) (n : Nibble) : lo (echoAddrByte s n) = n := by revert s n; decide
@[simp] theorem hi_echoLenByte (w : Nibble) : hi (echoLenByte w) = 3 := by revert w; decide
@[simp] theorem lo_echoLenByte (w : Nibble) : lo (echoLenByte w) = w := by revert w; decide

/-- A host operation decodes from its own request word, with its operands legal or not: each field of the packed word is
read back. -/
theorem decode_encode_hostOp {i : Instr} (hi : i.isHostOp = true) : decode .request (encode i) = .ok i := by
  cases i <;> simp [Instr.isHostOp, Instr.standsAt] at hi
  all_goals simp [encode, decode, decodeRequest]

/-- A well-formed wire symbol decodes from its own byte at each of its positions (rules R93, R94, R96, R99). -/
theorem decode_encode_symbol {i : Instr} {p : Position} (hp : p ≠ .request) (hwf : i.wf = true)
    (hs : i.standsAt p = true) : decode p (encode i) = .ok i := by
  cases i <;> simp [Instr.standsAt, hp, or_assoc] at hs
  case reset | cmdSpecial => subst hs; rfl
  case busy | ready | data | chksum => subst hs; rfl
  case addrNibble n =>
    obtain rfl | rfl | rfl | rfl := hs
    all_goals simp [encode, decode, decodeSymbol, decodeCommandByte]
  case len w =>
    subst hs
    simp [encode, decode, decodeSymbol, decodeCommandByte]
  case hsOther b =>
    subst hs
    obtain ⟨hbusy, hready⟩ : b ≠ 0x01 ∧ b ≠ 0x02 := of_decide_eq_true hwf
    simp only [encode, decode, decodeSymbol, decodePoll, hbusy, hready, if_false]
  case echoAddr s n =>
    obtain rfl | rfl | rfl | rfl := hs
    all_goals simp [encode, decode, decodeSymbol, decodeEchoByte]
  case echoLen w =>
    subst hs
    simp [encode, decode, decodeSymbol, decodeEchoByte]

/-- Settles O1: a host operation stands at the request position alone, and every other instruction is a wire symbol. -/
theorem decodeOfEncode : Obligations.DecodeOfEncode := by
  intro i p hwf hs
  by_cases hp : p = .request
  · subst hp
    exact decode_encode_hostOp hs
  · exact decode_encode_symbol hp hwf hs

/-! ### Encode after decode -/

/-- A word is the packing of six fields exactly when its fields are those; the operation code is compared by its number,
as the decoder reads it. -/
theorem packRequest_eq_iff {op n : Nibble} {a : Addr} {p2 p1 p0 : Byte} {w : RequestWord} :
    packRequest op n a p2 p1 p0 = w ↔ (fieldOp w).toNat = op.toNat ∧ fieldN w = n ∧ fieldA w = a ∧ fieldP2 w = p2 ∧
      fieldP1 w = p1 ∧ fieldP0 w = p0 := by
  constructor
  · rintro rfl
    simp
  · rintro ⟨hop, rfl, rfl, rfl, rfl, rfl⟩
    rw [← BitVec.eq_of_toNat_eq hop]
    exact pack_fields w

/-- A row whose check on its zero fields comes last decodes only if the check holds. -/
theorem ok_of_ite {ε α : Type} {c : Prop} [Decidable c] {e : ε} {x y : α}
    (h : (if c then .ok x else .error e : Except ε α) = .ok y) : c ∧ x = y := by
  split at h
  · next hc => cases h; exact ⟨hc, rfl⟩
  · cases h

/-- A row that rejects `c` first decodes only if `c` fails. -/
theorem ok_of_ite_error {ε α : Type} {c : Prop} [Decidable c] {e : ε} {x : Except ε α} {y : α}
    (h : (if c then .error e else x) = .ok y) : ¬c ∧ x = .ok y := by
  split at h
  · cases h
  · next hc => exact ⟨hc, h⟩

/-- What a request word decodes to is encoded as that word: each row reads or fixes all six fields. -/
theorem encode_of_decodeRequest {w : RequestWord} {i : Instr} (h : decodeRequest w = .ok i) :
    encode i = .request w := by
  simp only [decodeRequest] at h
  split at h
  case h_1 hop | h_2 hop | h_3 hop =>
    obtain ⟨hz, rfl⟩ := ok_of_ite h
    simp [encode, packRequest_eq_iff, hop, hz]
  case h_4 hop =>
    obtain ⟨hz, rfl⟩ := ok_of_ite h
    simp [encode, packRequest_eq_iff, hop, checksumField_join _ hz]
  case h_5 hop | h_6 hop | h_7 hop | h_9 hop | h_10 hop | h_11 hop =>
    obtain ⟨hn, h⟩ := ok_of_ite_error h
    obtain ⟨hz, rfl⟩ := ok_of_ite h
    simp [encode, packRequest_eq_iff, hop, not_not.mp hn, hz]
  case h_8 hop =>
    obtain ⟨hn, h⟩ := ok_of_ite_error h
    obtain ⟨hz, rfl⟩ := ok_of_ite h
    simp [encode, packRequest_eq_iff, hop, windField_join _ (not_not.mp hn), hz]
  case h_12 => cases h

theorem decode_symbol (p : Position) (b : Byte) : decode p (.symbol b) = decodeSymbol p b := by
  cases p <;> rfl

/-- Settles O2: a request word decodes in a request's place alone, and a byte re-encodes at every position. -/
theorem encodeOfDecode : Obligations.EncodeOfDecode := by
  intro p c i h
  cases c with
  | symbol b => exact encode_of_decodeSymbol (decode_symbol p b ▸ h)
  | request w =>
    cases p with
    | request => exact encode_of_decodeRequest h
    | _ => cases h

end Sys2Proof

namespace Sys2Proof.Machine

/-! ### Legal operands: each operation's own check is the well-formedness of its instruction (rules R82, R135) -/

theorem widthInRange_iff {n : Nibble} : widthInRange n = true ↔ 1 ≤ n.toNat ∧ n.toNat ≤ 3 := decide_eq_true_iff

theorem legalEncode_eq (n : Nibble) : legalEncode n = decide (1 ≤ n.toNat) := by revert n; decide

theorem isAddrNibble_iff_range (b : Byte) :
    isAddrNibble b = true ↔ 0x82 ≤ b.toNat ∧ b.toNat ≤ 0xBE ∧ (b.toNat - 0x82) % 4 = 0 := by
  revert b; decide

/-- LEN with a width of at least 1: 0xC2 itself is no length byte (rule R88). -/
theorem isLen_iff_range (b : Byte) :
    isLen b = true ∧ midNibble b ≠ 0 ↔ 0xC6 ≤ b.toNat ∧ b.toNat ≤ 0xFE ∧ (b.toNat - 0xC2) % 4 = 0 := by
  revert b; decide

theorem legalEcho_eq (seq : Nibble) (cmd : Byte) : legalEcho seq cmd = echoDomain seq cmd := by
  rw [Bool.eq_iff_iff]
  unfold legalEcho echoDomain
  split
  · next h => simp [isAddrNibble_iff_range, h, BitVec.toNat_eq, show seq.toNat ≠ 4 by omega]
  · next h =>
    simp only [Bool.and_eq_true, and_assoc, bne_iff_ne, isLen_iff_range]
    simp [h, BitVec.toNat_eq, show seq.toNat ≠ 0 by omega]

theorem legalCheck_eq (n : Nibble) (b2 b1 : Byte) :
    legalCheck n b2 b1 = (widthInRange n && unusedBytesZero n b2 b1) := by
  rw [Bool.eq_iff_iff, Bool.and_eq_true, widthInRange_iff]
  unfold legalCheck
  split
  case h_1 h | h_2 h | h_3 h => simp [unusedBytesZero, h]
  case h_4 h1 h2 h3 =>
    have hn : n.toNat ≠ 1 ∧ n.toNat ≠ 2 ∧ n.toNat ≠ 3 := ⟨h1, h2, h3⟩
    have hout : ¬(1 ≤ n.toNat ∧ n.toNat ≤ 3) := by omega
    simp [hout]

theorem legalWindDirection_eq (n : BitVec 2) (b2 b1 : Byte) :
    legalWindDirection n b2 b1 = windDirectionOperands n b2 b1 := by
  rw [Bool.eq_iff_iff]
  have hn : n = 0 ∨ n = 1 ∨ n = 2 ∨ n = 3 := by revert n; decide
  obtain rfl | rfl | rfl | rfl := hn
  all_goals simp [legalWindDirection, windDirectionOperands]

/-! ### Host operations -/

/-- An outcome whose next states add no REFUSED to the responses of `s`. -/
def NeverRefuses (s : State) (k : Result) : Prop :=
  ∀ t r, k = .next t → t.responses = r :: s.responses → r.status ≠ .refused

theorem neverRefuses_deliver {s u : State} {r : Resp} (hr : r.status ≠ .refused) :
    NeverRefuses s (.next (u.deliver r)) := by
  rintro t r' ht hres
  cases ht
  rw [State.deliver_responses, List.cons.injEq] at hres
  exact hres.1 ▸ hr

/-- A host operation is taken in IDLE only, and refused if it is ill formed (rules R80, R83); well formed, it never answers
REFUSED. -/
theorem exec_eq_hostOp {i : Instr} (hi : i.isHostOp = true) (s : State) :
    ∃ k, exec i s = hostOp i.wf s k ∧ NeverRefuses s k := by
  cases i <;> simp [Instr.isHostOp, Instr.standsAt] at hi
  case read n a =>
    refine ⟨_, rfl, fun t r ht hres => ?_⟩
    split at ht <;> cases ht
    simp at hres
  case encodeCommand n a => exact ⟨_, congrArg (hostOp · s _) (legalEncode_eq n), neverRefuses_deliver (by simp)⟩
  case expectedEcho seq cmd =>
    exact ⟨_, congrArg (hostOp · s _) (legalEcho_eq seq cmd), neverRefuses_deliver (by split <;> simp)⟩
  case checkData n c b2 b1 b0 =>
    exact ⟨_, congrArg (hostOp · s _) (legalCheck_eq n b2 b1), neverRefuses_deliver (by simp)⟩
  case decodeWindDirection n b2 b1 b0 =>
    exact ⟨_, congrArg (hostOp · s _) (legalWindDirection_eq n b2 b1), neverRefuses_deliver (by simp)⟩
  case decodeTendencyForecast b0 => exact ⟨_, rfl, neverRefuses_deliver (by split <;> simp)⟩
  all_goals exact ⟨_, rfl, neverRefuses_deliver (by simp)⟩

/-! ### Legal request words (rules R82, R135) -/

section
variable {w : RequestWord}

/-! The slices of a word that `LegalRequest` reads are the decoder's fields. -/

@[simp] theorem slice_op : slice w 44 4 = (fieldOp w).toNat := (extract_toNat w 44 4).symm
@[simp] theorem slice_n : slice w 40 4 = (fieldN w).toNat := (extract_toNat w 40 4).symm
@[simp] theorem slice_a : slice w 24 16 = (fieldA w).toNat := (extract_toNat w 24 16).symm
@[simp] theorem slice_p2 : slice w 16 8 = (fieldP2 w).toNat := (extract_toNat w 16 8).symm
@[simp] theorem slice_p1 : slice w 8 8 = (fieldP1 w).toNat := (extract_toNat w 8 8).symm
@[simp] theorem slice_p0 : slice w 0 8 = (fieldP0 w).toNat := (extract_toNat w 0 8).symm

@[simp] theorem checksumField_toNat (c : Byte) : (0#8 ++ c : BitVec 16).toNat = c.toNat := by revert c; decide
@[simp] theorem windField_toNat (n : BitVec 2) : (0#2 ++ n : BitVec 4).toNat = n.toNat := by revert n; decide

theorem unusedBytesZero_iff {n : Nibble} {b2 b1 : Byte} :
    unusedBytesZero n b2 b1 = true ↔ (n.toNat < 3 → b2.toNat = 0) ∧ (n.toNat < 2 → b1.toNat = 0) := by
  simp only [unusedBytesZero, decide_eq_true_eq, BitVec.toNat_eq]
  rfl

/-- Rule R135's domain by ranges and remainders is the one by the operand of the command byte. -/
theorem echoDomain_iff {seq : Nibble} {cmd : Byte} : echoDomain seq cmd = true ↔
    (seq.toNat < 4 ∧ ∃ m, m < 16 ∧ cmd.toNat = 0x82 + 4 * m) ∨ (seq.toNat = 0 ∧ cmd.toNat = 0x06) ∨
      (seq.toNat = 4 ∧ ∃ m, 1 ≤ m ∧ m ≤ 15 ∧ cmd.toNat = 0xC2 + 4 * m) := by
  have haddr : (∃ m, m < 16 ∧ cmd.toNat = 0x82 + 4 * m) ↔
      0x82 ≤ cmd.toNat ∧ cmd.toNat ≤ 0xBE ∧ (cmd.toNat - 0x82) % 4 = 0 :=
    ⟨fun ⟨m, hm, h⟩ => by omega, fun h => ⟨(cmd.toNat - 0x82) / 4, by omega, by omega⟩⟩
  have hlen : (∃ m, 1 ≤ m ∧ m ≤ 15 ∧ cmd.toNat = 0xC2 + 4 * m) ↔
      0xC6 ≤ cmd.toNat ∧ cmd.toNat ≤ 0xFE ∧ (cmd.toNat - 0xC2) % 4 = 0 :=
    ⟨fun ⟨m, hlo, hhi, h⟩ => by omega, fun h => ⟨(cmd.toNat - 0xC2) / 4, by omega, by omega, by omega⟩⟩
  rw [haddr, hlen]
  exact decide_eq_true_iff

/-- Rule R82's table holds of the code of a host operation exactly when its operands are well formed. -/
theorem legalRequest_iff_wf {i : Instr} (hi : i.isHostOp = true) (h : encode i = .request w) :
    LegalRequest w ↔ i.wf = true := by
  cases i <;> simp [Instr.isHostOp, Instr.standsAt] at hi
  all_goals cases h
  case read n a => simp [LegalRequest, Instr.wf, widthInRange_iff]
  case encodeCommand n a => simp [LegalRequest, Instr.wf, show n.toNat ≤ 15 by omega]
  case expectedEcho seq cmd => simp [LegalRequest, Instr.wf, echoDomain_iff]
  case checkData n c b2 b1 b0 =>
    simp [LegalRequest, Instr.wf, widthInRange_iff, unusedBytesZero_iff, c.isLt, and_assoc]
  case decodeWindDirection n b2 b1 b0 =>
    simp [LegalRequest, Instr.wf, windDirectionOperands, BitVec.toNat_eq]
  all_goals simp [LegalRequest, Instr.wf]

/-- Every word of rule R82's table is an instruction. -/
theorem decodeRequest_of_legal (h : LegalRequest w) : ∃ i, decodeRequest w = .ok i := by
  simp only [LegalRequest, slice_op, slice_n, slice_a, slice_p2, slice_p1, slice_p0] at h
  rcases h with ⟨hop, h⟩ | ⟨hop, h⟩ | ⟨hop, h⟩ | ⟨hop, h⟩ | ⟨hop, h⟩ | ⟨hop, h⟩ | ⟨hop, h⟩ | ⟨hop, h⟩ | ⟨hop, h⟩ |
    ⟨hop, h⟩ | ⟨hop, h⟩
  case inr.inr.inr.inl =>
    have ha : (fieldA w).extractLsb' 8 8 = 0 := BitVec.eq_of_toNat_eq (by rw [extract_toNat]; simp; omega)
    simp [decodeRequest, hop, ha]
  case inr.inr.inr.inr.inr.inr.inr.inl =>
    have hn : (fieldN w).extractLsb' 2 2 = 0 := BitVec.eq_of_toNat_eq (by rw [extract_toNat]; simp; omega)
    simp [decodeRequest, hop, hn, BitVec.toNat_eq, h]
  all_goals simp [decodeRequest, hop, BitVec.toNat_eq, h]

end

/-- Settles O6: outside rule R82's table a word decodes to no instruction or to an ill-formed one, and both are refused;
inside it decodes to a well-formed one, which never answers REFUSED. -/
theorem refusedExactlyWhenIllFormed : Obligations.RefusedExactlyWhenIllFormed := by
  intro s w rest hr hs hq
  rw [step_idle hr hs]
  refine ⟨fun hl => ?_, fun hl t r ht hres => ?_⟩
  · have hrefused : idleStep s = .next (State.deliver refusal { s with requests := rest }) := by
      cases hd : decode .request (.request w) with
      | error e => exact idleStep_of_error hq hd
      | ok i =>
        have hi := standsAt_of_decodeRequest hd
        have hwf : i.wf = false := by
          rw [← Bool.not_eq_true, ← legalRequest_iff_wf hi (encode_of_decodeRequest hd)]
          exact hl
        obtain ⟨k, hk, -⟩ := exec_eq_hostOp hi { s with requests := rest }
        rw [idleStep_of_decode hq hd, hk, hwf]
        exact hostOp_next.mpr ⟨hs, .inr ⟨rfl, rfl⟩⟩
    exact ⟨_, hrefused, by simp [refusal], by simp [hs], by simp, by simp, by simp, by simp⟩
  · obtain ⟨i, hd⟩ := decodeRequest_of_legal hl
    have hi := standsAt_of_decodeRequest hd
    obtain ⟨k, hk, hnever⟩ := exec_eq_hostOp hi { s with requests := rest }
    rw [idleStep_of_decode hq hd, hk, (legalRequest_iff_wf hi (encode_of_decodeRequest hd)).mp hl, hostOp_next] at ht
    obtain ⟨-, ⟨-, hk⟩ | ⟨hf, -⟩⟩ := ht
    · exact hnever t r hk hres
    · cases hf

/-- Only IDLE takes a request off the queue, its first (rules R80, R247). -/
theorem Transition.requests_or_taken {s t : State} (h : Transition s t) :
    t.requests = s.requests ∨ (s.st = .idle ∧ ∃ w, s.requests = w :: t.requests) := by
  cases h with
  | readStart hs hq | answered hs hq => exact .inr ⟨hs, _, by simpa using hq⟩
  | blockReset | waiting => exact .inl rfl
  | _ => exact .inl (by simp)

/-- Settles O7: every step is a transition, and of those only a READ's start and an answer in IDLE take a request. -/
theorem requestsTakenOnlyInIdle : Obligations.RequestsTakenOnlyInIdle :=
  fun _ _ h => (transition_of_step h).requests_or_taken

/-! ### The bytes sent -/

section
variable {s t : State} {a : Addr} {w : Nibble} {att rnd q : Nat} {b : Byte} {r : IoResult}

/-- A byte goes out in HS_RESET, the reset byte, and in CMD_SEND, the command byte due (rules R112, R136). -/
theorem Transition.byte_written (h : Transition s t) (hlog : t.ch.log = .write b r :: s.ch.log) :
    b = Config.resetByte ∨ (s.st = .cmdSend ∧ ∃ q, s.regs.seq = some q ∧ s.regs.cmdAt q = some b) := by
  cases h with
  | resetSent | resetFailed =>
    obtain ⟨hb, -⟩ : Config.resetByte = b ∧ _ := by simpa using hlog
    exact .inl hb.symm
  | commandSent hs hq hb | commandFailed hs hq hb =>
    obtain ⟨rfl, -⟩ := by simpa using hlog
    exact .inr ⟨hs, _, hq, hb⟩
  | _ => simp at hlog

/-- A command byte due in an attempt is one of those that ENCODE made (rules R24, R157). -/
theorem Attempt.cmdAt_mem (h : Attempt s a w att rnd) (hq : q < (encodeCmd a w.toNat).length)
    (hb : s.regs.cmdAt q = some b) : b ∈ encodeCmd a w.toNat := by
  have h5 : (encodeCmd a w.toNat).length ≤ 5 := by rw [encodeCmd_length]; split <;> decide
  rw [Regs.cmdAt, h.cmd, cmdAt_loadCmd (by omega)] at hb
  exact List.mem_of_getElem? hb

/-- ENCODE makes the reset byte, or ADDR_NIBBLE bytes and a length byte of its width (rules R130, R131). -/
theorem encodeCmd_bytes (h : b ∈ encodeCmd a w.toNat) :
    b = Config.resetByte ∨ (∃ n, b = addrNibbleByte n) ∨ b = lenByte w := by
  by_cases ha : a = Config.specialAddr
  · subst ha
    rw [encodeCmd_special, List.mem_singleton] at h
    exact .inl h
  · rw [encodeCmd_general ha, lenCode_eq] at h
    simp only [List.mem_cons, List.not_mem_nil, or_false] at h
    obtain h | h | h | h | h := h
    case inr.inr.inr.inr => exact .inr (.inr h)
    all_goals exact .inr (.inl ⟨_, h⟩)

end

/-- Settles O55: under the invariant the command of the READ in progress is ENCODE's, of a width from 1 to 3. -/
theorem onlyProtocolBytesAreSent : Obligations.OnlyProtocolBytesAreSent := by
  intro s t b r hi h hlog
  obtain rfl | ⟨hs, q, hq, hb⟩ := (transition_of_step h).byte_written hlog
  · exact .inl rfl
  · obtain ⟨a, w, att, rnd, hA, -, -, -, ⟨q', hq', hlt⟩, -⟩ := hi.attempt hs (by decide)
    cases hq'.symm.trans hq
    obtain rfl | ⟨n, rfl⟩ | rfl := encodeCmd_bytes (hA.cmdAt_mem hlt hb)
    · exact .inl rfl
    · exact .inr (.inl ⟨n.toNat, n.isLt, addrNibbleByte_toNat n⟩)
    · exact .inr (.inr ⟨w.toNat, hA.width.1, hA.width.2, lenByte_toNat w⟩)

/-! ### Decoded words and their places -/

/-- Settles O3: the decoder runs on the ten words. -/
theorem specWordsDecode : Obligations.SpecWordsDecode := by
  unfold Obligations.SpecWordsDecode
  decide

/-- Settles O4: in IDLE the step is `idleStep`, which decodes the word at the head of the queue. -/
theorem stepRunsDecodedRequest : Obligations.StepRunsDecodedRequest :=
  fun _ _ _ _ hr hs hq hd => (step_idle hr hs).trans (idleStep_of_decode hq hd)

theorem hostOp_outside_idle {legal : Bool} {s : State} (k : Result) (hs : s.st ≠ .idle) :
    hostOp legal s k = .fault .requestOutsideIdle :=
  if_neg hs

/-- Settles O8: every host operation begins with `hostOp`'s check of the sequencer state. -/
theorem hostOperationOutsideIdleIsStuck : Obligations.HostOperationOutsideIdleIsStuck := by
  intro i s hi hs
  obtain ⟨k, hk, -⟩ := exec_eq_hostOp hi s
  rw [hk, hostOp_outside_idle k hs]

theorem sendCommandSymbol_outside_cmdSend {s : State} (position : Nat → Bool) (b : Byte) (hs : s.st ≠ .cmdSend) :
    sendCommandSymbol position b s = .fault .symbolOutOfPosition :=
  if_neg hs

/-- Settles O42: RESET checks for HS_RESET, and the three command symbols are sent by `sendCommandSymbol`. -/
theorem sentSymbolsHaveOnePlace : Obligations.SentSymbolsHaveOnePlace := by
  refine fun i s => ⟨?_, ?_⟩
  · rintro rfl hs
    exact if_neg hs
  · rintro (⟨n, rfl⟩ | ⟨w, rfl⟩ | rfl) hs
    all_goals exact sendCommandSymbol_outside_cmdSend _ _ hs

end Sys2Proof.Machine

/-! PROOFS. The statements of the family 40_handshake.md. -/

namespace Sys2Proof.Machine

section
variable {s t u : State}

/-! ### Budgets: what an operation costs, and what a state has left -/

@[simp] theorem channelOps_flush (r : IoResult) (log : List Token) :
    channelOps (.flush r :: log) = channelOps log + 1 := List.countP_cons_of_pos rfl
@[simp] theorem channelOps_write (b : Byte) (r : IoResult) (log : List Token) :
    channelOps (.write b r :: log) = channelOps log + 1 := List.countP_cons_of_pos rfl
@[simp] theorem channelOps_read (r : RdResult) (log : List Token) :
    channelOps (.read r :: log) = channelOps log + 1 := List.countP_cons_of_pos rfl
@[simp] theorem channelOps_wait (ms : Nat) (log : List Token) :
    channelOps (.wait ms :: log) = channelOps log := List.countP_cons_of_neg (by simp [Token.isChannelOp])

@[simp] theorem num_some (n : Nat) : num (some n) = n := rfl

/-- The width is read off REQ_WIDTH alone. -/
theorem State.width_congr (h : t.regs.reqWidth = s.regs.reqWidth) : t.width = s.width := by
  simp only [State.width, h]

/-- IDLE has no budget. -/
theorem State.opsLeft_idle (h : s.st = .idle) : s.opsLeft = 0 := if_pos h

/-- A READ has the budget of the attempts after the present one, and what is left of the present one. -/
theorem State.opsLeft_reading (h : s.st ≠ .idle) :
    s.opsLeft = (49 - num s.regs.att) * opsPerAttempt s.width + s.opsLeftInAttempt := if_neg h

/-- From ATT_START to CHK_READ an attempt has an operation left: the checksum read at least. -/
theorem State.opsLeftInAttempt_pos (h : 1 ≤ s.st.code ∧ s.st.code ≤ 9) : 1 ≤ s.opsLeftInAttempt := by
  cases hs : s.st
  case idle | attFail | unused =>
    simp only [hs, SeqState.code] at h
    omega
  all_goals
    simp only [State.opsLeftInAttempt, opsPerAttempt, hs]
    omega

/-- In ATT_FAIL the attempt has ended. -/
theorem State.opsLeftInAttempt_attFail (h : s.st = .attFail) : s.opsLeftInAttempt = 0 := by
  simp [State.opsLeftInAttempt, h]

/-- A step that counts no attempt is paid from the budget if it is paid from what is left of the present attempt. -/
theorem opsLeft_le_of_sameAttempt (hs : s.st ≠ .idle) (hatt : t.regs.att = s.regs.att)
    (hw : t.regs.reqWidth = s.regs.reqWidth)
    (h : channelOps t.ch.log + t.opsLeftInAttempt ≤ channelOps s.ch.log + s.opsLeftInAttempt) :
    channelOps t.ch.log + t.opsLeft ≤ channelOps s.ch.log + s.opsLeft := by
  rw [State.opsLeft_reading hs]
  by_cases ht : t.st = .idle
  · rw [State.opsLeft_idle ht]; omega
  · rw [State.opsLeft_reading ht, hatt, State.width_congr hw]; omega

/-- Raising an error ends the attempt, which still had the operation that failed. -/
theorem opsLeft_le_of_raise (hs : 1 ≤ s.st.code ∧ s.st.code ≤ 9) (e : LocalError) (hatt : u.regs.att = s.regs.att)
    (hw : u.regs.reqWidth = s.regs.reqWidth) (hlog : channelOps u.ch.log ≤ channelOps s.ch.log + 1) :
    channelOps (u.raise e).ch.log + (u.raise e).opsLeft ≤ channelOps s.ch.log + s.opsLeft := by
  have hpos := State.opsLeftInAttempt_pos hs
  refine opsLeft_le_of_sameAttempt (fun h => by simp [h, SeqState.code] at hs) (by simp [hatt]) (by simp [hw]) ?_
  rw [State.opsLeftInAttempt_attFail (State.raise_st u e), State.raise_ch]
  omega

/-- A command has at most five bytes (rule R95). -/
theorem encodeCmd_length_le (a : Addr) (w : Nat) : (encodeCmd a w).length ≤ 5 := by
  rw [encodeCmd_length]; split <;> decide

/-- What a step of a READ spends it takes off the budget: a round has 12 operations for its flush, its reset byte and its
ten polls, a command byte has two, and an attempt that fails gives up what it had left (rules R121, R159). -/
theorem Transition.opsLeft_le (h : Transition s t) (hi : s.Inv) (hs : s.st ≠ .idle) (hr : s.resetIn = false) :
    channelOps t.ch.log + t.opsLeft ≤ channelOps s.ch.log + s.opsLeft := by
  cases h with
  | blockReset h => simp [hr] at h
  | waiting => exact le_rfl
  | readStart h | answered h => exact absurd h hs
  | attempt h =>
    refine opsLeft_le_of_sameAttempt hs (by simp [Regs.startAttempt]) (by simp [Regs.startAttempt]) ?_
    simp [State.opsLeftInAttempt, h, State.width, Regs.startAttempt, opsPerAttempt]
  | flushed h =>
    obtain ⟨_, _, _, _, hA, hrnd, -⟩ := hi.attempt h (by decide)
    refine opsLeft_le_of_sameAttempt hs (by simp) (by simp) ?_
    simp [State.opsLeftInAttempt, h, State.width, hA.rnd]
    omega
  | resetSent h =>
    refine opsLeft_le_of_sameAttempt hs (by simp) (by simp) ?_
    simp [State.opsLeftInAttempt, h, State.width]
    omega
  | polled h _ hp _ hg =>
    obtain ⟨a, w, _, _, hA, -, -, ⟨_, hp', hlt⟩, -⟩ := hi.attempt h (by decide)
    cases hp'.symm.trans hp
    have hlen := encodeCmd_length_le a w.toNat
    obtain ⟨-, rfl, rfl⟩ | ⟨-, rfl, -, rfl⟩ | ⟨rfl, rfl⟩ := hg
    all_goals
      refine opsLeft_le_of_sameAttempt hs (by simp) (by simp) ?_
      simp [State.opsLeftInAttempt, h, State.width, hp, hA.cmdLen]
      omega
  | backoff h hn =>
    refine opsLeft_le_of_sameAttempt hs (by simp) (by simp) ?_
    simp [State.opsLeftInAttempt, h, State.width, hn]
  | commandSent h hq =>
    obtain ⟨_, _, _, _, hA, -, -, -, ⟨_, hq', hlt⟩, -⟩ := hi.attempt h (by decide)
    cases hq'.symm.trans hq
    refine opsLeft_le_of_sameAttempt hs (by simp) (by simp) ?_
    simp [State.opsLeftInAttempt, h, State.width, hq, hA.cmdLen]
    omega
  | echoed h _ _ hq _ _ hl hg =>
    obtain ⟨_, _, _, _, hA, -, -, -, ⟨_, hq', hlt⟩, -⟩ := hi.attempt h (by decide)
    cases hq'.symm.trans hq
    cases hA.cmdLen.symm.trans hl
    obtain ⟨-, rfl, rfl⟩ | ⟨-, rfl, rfl⟩ := hg
    all_goals
      refine opsLeft_le_of_sameAttempt hs (by simp) (by simp) ?_
      simp [State.opsLeftInAttempt, h, State.width, hq, hl]
      omega
  | dataStored h _ _ _ hk hw =>
    obtain ⟨_, _, _, _, hA, -, -, -, -, ⟨_, hlt, hk', -⟩, -⟩ := hi.attempt h (by decide)
    cases hk'.symm.trans hk
    cases hA.reqWidth.symm.trans hw
    refine opsLeft_le_of_sameAttempt hs (by simp) (by simp) ?_
    split
    all_goals
      simp [State.opsLeftInAttempt, h, State.width, hk, hw]
      omega
  | succeeded h =>
    have hpos := State.opsLeftInAttempt_pos (s := s) (by simp [h, SeqState.code])
    rw [State.opsLeft_reading hs, State.opsLeft_idle (by simp)]
    simp
    omega
  | @retried n h hn hlt =>
    obtain ⟨_, _, _, hR⟩ := hi.readInProgress hs
    cases hR.failed.symm.trans hn
    have hb := hR.budget
    rw [State.opsLeft_reading hs, State.opsLeft_reading (by simp)]
    have hmore : 49 - n = 48 - n + 1 := by omega
    simp [State.opsLeftInAttempt, h, State.width, hn, hmore, Nat.succ_mul]
  | exhausted =>
    rw [State.opsLeft_idle (by simp)]
    simp
  | flushFailed h | resetFailed h | commandFailed h | checksumMismatched h | handshakeFailed h =>
    exact opsLeft_le_of_raise (by simp [h, SeqState.code]) _ (by simp) (by simp) (by simp)
  | readFailed h =>
    have hc : 1 ≤ s.st.code ∧ s.st.code ≤ 9 := by obtain h | h | h := h <;> simp [h, SeqState.code]
    exact opsLeft_le_of_raise hc _ (by simp) (by simp) (by simp)

end

/-- Settles O58: every step is a transition, which pays from the budget; and a READ accepted has 50 attempts of at most
1214 operations before it. -/
theorem channelOperationsAreBudgeted : Obligations.ChannelOperationsAreBudgeted := by
  refine ⟨fun s t hi hs hr h => (transition_of_step h).opsLeft_le hi hs hr, fun s t n a hs h ht => ?_⟩
  obtain ⟨-, ⟨hl, -, rfl⟩ | ⟨-, rfl⟩⟩ := execRead_next.mp h
  · have hw := (legalRead_iff.mp hl).2
    rw [State.opsLeft_reading (by simp)]
    simp [State.opsLeftInAttempt, State.width, opsPerAttempt]
    omega
  · simp [hs] at ht

section
variable {s : State}

/-! ### Whole next states: what an event, or an error raised behind one, makes of the state -/

theorem State.emit_eq (s : State) (ev : TraceEvent) : s.emit ev = { s with trace := s.traced [ev] } := by
  unfold State.emit State.traced
  split <;> rfl

/-- Registers may be written before or after an event: neither reads what the other writes. -/
theorem State.setRegs_emit (s : State) (g : Regs) (ev : TraceEvent) : (s.emit ev).setRegs g = (s.setRegs g).emit ev := by
  rw [State.emit_eq, State.emit_eq]
  rfl

/-- An error raised behind the event of its step: both stand in the trace, the error first (rules R209, R221). -/
theorem State.raise_emit_eq (s : State) (ev : TraceEvent) (e : LocalError) :
    (s.emit ev).raise e = { s with
      st := .attFail
      regs := { s.regs with lastErr := some e.kind }
      trace := s.traced [.error e s.st, ev] } := by
  cases s with
  | mk st regs traceEn => cases traceEn <;> rfl

/-! ### A channel operation that returns -/

theorem chRead_cons {e : RdEvent} {rest : List RdEvent} (ho : s.ch.isOpen = true) (hrd : s.ch.reads = e :: rest)
    (k : RdResult → State → Result) : chRead s k = k (readFrom s.ch.rxBuf e).1 (s.readAt e rest) := by
  simp [chRead, ho, hrd]

/-! ### A wire symbol in the state that sends or reads it -/

theorem exec_reset (hs : s.st = .hsReset) : exec .reset s = hsReset s := if_pos hs

theorem receiveByte_hsPoll (hs : s.st = .hsPoll) (v : Byte) : receiveByte v s = pollByte v s := by
  simp [receiveByte, hs]
theorem receiveByte_cmdEcho (hs : s.st = .cmdEcho) (v : Byte) : receiveByte v s = echoByte v s := by
  simp [receiveByte, hs]
theorem receiveByte_dataRead (hs : s.st = .dataRead) (v : Byte) : receiveByte v s = dataByte v s := by
  simp [receiveByte, hs]
theorem receiveByte_chkRead (hs : s.st = .chkRead) (v : Byte) : receiveByte v s = chkByte v s := by
  simp [receiveByte, hs]

/-- The step in a reading state whose read returns a byte is the receipt of that byte (rules R213, R214). -/
theorem step_of_byte_read {e : RdEvent} {rest : List RdEvent} {v : Byte} {buf : List Byte} (hr : s.resetIn = false)
    (hs : s.st = .hsPoll ∨ s.st = .cmdEcho ∨ s.st = .dataRead ∨ s.st = .chkRead) (ho : s.ch.isOpen = true)
    (hrd : s.ch.reads = e :: rest) (hread : readFrom s.ch.rxBuf e = (.byte v, buf)) :
    step s = receiveByte v (s.readAt e rest) := by
  obtain hs | hs | hs | hs := hs
  · rw [step_hsPoll hr hs, chRead_cons ho hrd, hread]
    exact (receiveByte_hsPoll (s := s.readAt e rest) hs v).symm
  · rw [step_cmdEcho hr hs, chRead_cons ho hrd, hread]
    exact (receiveByte_cmdEcho (s := s.readAt e rest) hs v).symm
  · rw [step_dataRead hr hs, chRead_cons ho hrd, hread]
    exact (receiveByte_dataRead (s := s.readAt e rest) hs v).symm
  · rw [step_chkRead hr hs, chRead_cons ho hrd, hread]
    exact (receiveByte_chkRead (s := s.readAt e rest) hs v).symm

theorem decode_symbol (p : Position) (b : Byte) : decode p (.symbol b) = decodeSymbol p b := by cases p <;> rfl

end

/-- Settles O5: RESET and a command symbol are the step that sends them, and a console symbol is the receipt of its
byte. -/
theorem stepRunsDecodedSymbol : Obligations.StepRunsDecodedSymbol := by
  intro s hr
  refine ⟨fun hs => ?_, fun q b i hs hq hb hd => ?_, fun e rest v buf p i ho hrd hread hs hd => ?_⟩
  · rw [step_hsReset hr hs, exec_reset hs]
  · have hdue : commandDue s = some (q, b) := by simp [commandDue, hq, hb]
    rw [step_cmdSend hr hs, exec_outbound hs hdue hd]
  · rw [decode_symbol] at hd
    have hst : s.st = .hsPoll ∨ s.st = .cmdEcho ∨ s.st = .dataRead ∨ s.st = .chkRead :=
      hs.imp And.left (.imp And.left (.imp And.left And.left))
    have hp : p ≠ .resetSlot ∧ ∀ q, p ≠ .commandSlot q := by
      obtain ⟨-, rfl⟩ | ⟨-, _, -, rfl⟩ | ⟨-, rfl⟩ | ⟨-, rfl⟩ := hs <;> simp
    rw [step_of_byte_read hr hst ho hrd hread, exec_inbound _ hp hd]

/-- Settles O35: the two outcomes of a flush that returns. -/
theorem flushStep : Obligations.FlushStep := by
  intro s rest hr hs ho
  rw [step_hsFlush hr hs]
  refine ⟨fun hf => ?_, fun hf => ⟨Config.receiveBufferAfter s.draws, s.draws + 1, ?_⟩⟩
  · rw [hsFlush_next.mpr ⟨ho, .inr (.inl ⟨rest, hf, rfl⟩)⟩, State.emit_eq]
    rfl
  · rw [hsFlush_next.mpr ⟨ho, .inr (.inr ⟨rest, hf, rfl⟩)⟩, State.raise_emit_eq, State.flushed_st, hs]
    rfl

/-- Settles O37: RESET is the step HS_RESET, which writes the reset byte; the two outcomes of the write. -/
theorem resetByteIsWritten : Obligations.ResetByteIsWritten := by
  intro s rest hs ho
  rw [exec_reset hs]
  refine ⟨fun hf => ?_, fun hf => ?_⟩
  · rw [hsReset_next.mpr ⟨ho, .inr (.inl ⟨rest, _, hf, rfl, rfl⟩)⟩, State.emit_eq]
    rfl
  · rw [hsReset_next.mpr ⟨ho, .inr (.inr ⟨rest, hf, rfl⟩)⟩, State.raise_emit_eq, State.written_st, hs]
    rfl

section
variable {s : State} {p : Nat} {v : Byte}

/-! ### Polls -/

theorem cls_other (h1 : v ≠ 0x01) (h2 : v ≠ 0x02) : cls v = .other :=
  (if_neg h1).trans (if_neg h2)

/-- The state after a poll that returned `r` and sent the sequencer to `q` (rule R113). -/
def State.afterPoll (s : State) (p : Nat) (r : RdResult) (q : SeqState) : State :=
  { s with st := q, regs := { s.regs with poll := some (p + 1) }, trace := s.traced [.rx r .hsPoll] }

theorem State.afterPoll_eq (hs : s.st = .hsPoll) (r : RdResult) (q : SeqState) :
    ((s.setRegs { s.regs with poll := some (p + 1) }).emit (.rx r s.st)).goto q = s.afterPoll p r q := by
  rw [State.emit_eq, hs]
  rfl

theorem pollByte_other (hs : s.st = .hsPoll) (hp : s.regs.poll = some p) (h1 : v ≠ 0x01) (h2 : v ≠ 0x02) :
    pollByte v s = .next (s.afterPoll p (.byte v) .hsBackoff) :=
  pollByte_next.mpr ⟨p, _, hp, rfl, .inr (.inr ⟨.inr (cls_other h1 h2), State.afterPoll_eq hs ..⟩)⟩

theorem pollNoByte_eq (hs : s.st = .hsPoll) (hp : s.regs.poll = some p) (r : RdResult) :
    pollNoByte r s = .next (s.afterPoll p r .hsBackoff) :=
  pollNoByte_next.mpr ⟨p, hp, State.afterPoll_eq hs ..⟩

/-- BUSY polls again below the tenth poll, and abandons the round at it (rules R114, R117). -/
theorem pollByte_busy (hs : s.st = .hsPoll) (hp : s.regs.poll = some p) :
    pollByte Config.respBusy s =
      .next (s.afterPoll p (.byte Config.respBusy) (if p + 1 < 10 then .hsPoll else .hsBackoff)) := by
  split
  · next hlt => exact pollByte_next.mpr ⟨p, _, hp, rfl, .inr (.inl ⟨rfl, hlt, State.afterPoll_eq hs ..⟩)⟩
  · next hlt =>
    exact pollByte_next.mpr ⟨p, _, hp, rfl, .inr (.inr ⟨.inl ⟨rfl, not_lt.mp hlt⟩, State.afterPoll_eq hs ..⟩)⟩

/-- READY opens the command (rule R115). -/
theorem pollByte_ready (hs : s.st = .hsPoll) (hp : s.regs.poll = some p) :
    pollByte Config.respReady s = .next ((s.afterPoll p (.byte Config.respReady) .cmdSend).setRegs
      { s.regs with poll := some (p + 1), seq := some 0 }) := by
  refine pollByte_next.mpr ⟨p, _, hp, rfl, .inl ⟨rfl, ?_⟩⟩
  rw [State.emit_eq, hs]
  rfl

end

/-- Settles O38: in HS_POLL the three symbols are the receipt of their bytes, classified by `cls`. -/
theorem pollBytesAreClassified : Obligations.PollBytesAreClassified := by
  intro s p hs hp
  refine ⟨?_, ?_, fun v h1 h2 => ?_⟩
  · exact (receiveByte_hsPoll hs _).trans (pollByte_busy hs hp)
  · exact (receiveByte_hsPoll hs _).trans (pollByte_ready hs hp)
  · exact (receiveByte_hsPoll hs v).trans (pollByte_other hs hp h1 h2)

/-- Settles O39: the three outcomes of a read that abandon the round. -/
theorem pollFailuresAbandonRound : Obligations.PollFailuresAbandonRound := by
  intro s p e rest r buf hr hs ho hp hrd hread hcase
  have hstep : step s = .next ((s.readAt e rest).afterPoll p r .hsBackoff) := by
    rw [step_hsPoll hr hs, chRead_cons ho hrd, hread]
    obtain rfl | rfl | ⟨v, rfl, h1, h2⟩ := hcase
    · exact pollNoByte_eq (s := s.readAt e rest) hs hp _
    · exact pollNoByte_eq (s := s.readAt e rest) hs hp _
    · exact pollByte_other (s := s.readAt e rest) hs hp h1 h2
  rw [hstep]
  simp only [State.afterPoll, State.readAt, hread]
  rfl

/-- Settles O40: the round counted is the 100th, or it is not. -/
theorem backoffStep : Obligations.BackoffStep := by
  intro s rnd hr hs hrnd
  rw [step_hsBackoff hr hs]
  refine ⟨fun hne => ?_, fun hlast => ?_⟩
  · rw [hsBackoff_next.mpr ⟨rnd, _, hrnd, rfl, .inr ⟨hne, rfl⟩⟩, State.emit_eq]
    rfl
  · obtain rfl : rnd = 99 := by omega
    rw [hsBackoff_next.mpr ⟨99, _, hrnd, rfl, .inl ⟨rfl, rfl⟩⟩, State.setRegs_emit, State.raise_emit_eq,
      State.setRegs_st, State.waited_st, hs]
    rfl

end Sys2Proof.Machine

/-! PROOFS. The statements of the family 41_command_echo.md. -/

namespace Sys2Proof.Machine

section
variable {s t : State} {w : Nibble} {att rnd q : Nat} {b : Byte}

/-! ### READ 0x0006 under SPECIAL_ECHO = NONE -/

/-- No byte is the expected echo of a command byte of 0x0006: its only command byte is the reset byte at position 0
(rules R131, R134). -/
theorem Attempt.expectedEcho_special_none (h : Attempt s Config.specialAddr w att rnd) (hnone : s.params.specialEcho = none)
    (hq : q < (encodeCmd Config.specialAddr w.toNat).length) (hb : s.regs.cmdAt q = some b) :
    expectedEcho s.params q b = none := by
  have hmem := h.cmdAt_mem hq hb
  rw [encodeCmd_special] at hq hmem
  obtain rfl : q = 0 := Nat.lt_one_iff.mp hq
  obtain rfl := List.mem_singleton.mp hmem
  rw [expectedEcho_special, hnone]

/-- The data phase of a READ is entered by a matching echo only, which the special address does not have (rules R134,
R250). -/
theorem Transition.keeps_specialBarred (h : Transition s t) (hi : s.Inv) (hbar : s.SpecialBarred) : t.SpecialBarred := by
  intro hnone haddr
  rw [h.keeps_params_traceEn.1] at hnone
  cases h with
  | waiting => exact hbar hnone haddr
  | answered hs => simp [hs]
  | polled _ _ _ _ hg => obtain ⟨-, rfl, -⟩ | ⟨-, rfl, -⟩ | ⟨rfl, -⟩ := hg <;> simp
  | echoed hs _ _ hq hb he _ hg =>
    obtain ⟨a, w, _, _, hA, -, -, -, ⟨_, hq', hlt⟩, -⟩ := hi.attempt hs (by decide)
    cases hq'.symm.trans hq
    have haddr' : s.regs.reqAddr = some Config.specialAddr := by
      obtain ⟨-, -, rfl⟩ | ⟨-, -, rfl⟩ := hg <;> exact haddr
    cases hA.reqAddr.symm.trans haddr'
    cases (hA.expectedEcho_special_none hnone hlt hb).symm.trans he
  | dataStored hs => exact absurd hs (hbar hnone haddr).1
  | _ => simp

/-- The successful end of a READ stands in the data phase, so a READ of the special address has the other end only. -/
theorem Transition.exhausted_of_specialBarred {r : Resp} (h : Transition s t) (hbar : s.SpecialBarred)
    (hnone : s.params.specialEcho = none) (haddr : s.regs.reqAddr = some Config.specialAddr) (hs : s.st ≠ .idle)
    (hr : t.responses = r :: s.responses) : r = { status := .readExhausted, fails := some 50 } := by
  cases h with
  | answered hidle => exact absurd hidle hs
  | succeeded hchk => exact absurd hchk (hbar hnone haddr).2
  | exhausted =>
    simp only [State.respond_responses, State.setRegs_responses, State.emit_responses, List.cons.injEq, and_true] at hr
    exact hr.symm
  | _ => simp at hr

end

/-- Settles O57: a matching echo is needed to enter the data phase, and the data phase to answer OK. -/
theorem specialAddressNeverSucceeds : Obligations.SpecialAddressNeverSucceeds := by
  intro s t hi hbar h
  have hT := transition_of_step h
  exact ⟨hT.keeps_specialBarred hi hbar, fun hnone haddr hs r hr => hT.exhausted_of_specialBarred hbar hnone haddr hs hr⟩

/-! ### Nibbles and codes by their arithmetic -/

section
variable {a a' : Addr} {w : Nat}

/-- Nibble i of an address is a digit of it in base 16 (rule R97). -/
theorem addrNibbleAt_toNat (a : Addr) (i : Nat) : (addrNibbleAt a i).toNat = a.toNat / 2 ^ (12 - 4 * i) % 16 :=
  extract_toNat a _ 4

/-- An address is determined by its four nibbles. -/
theorem addr_eq_of_nibbles (h : ∀ i < 4, addrNibbleAt a i = addrNibbleAt a' i) : a = a' := by
  have hdigit : ∀ i < 4, a.toNat / 2 ^ (12 - 4 * i) % 16 = a'.toNat / 2 ^ (12 - 4 * i) % 16 := fun i hi => by
    rw [← addrNibbleAt_toNat, h i hi, addrNibbleAt_toNat]
  have h0 := hdigit 0 (by decide)
  have h1 := hdigit 1 (by decide)
  have h2 := hdigit 2 (by decide)
  have h3 := hdigit 3 (by decide)
  apply BitVec.eq_of_toNat_eq
  omega

theorem addrNibbleByte_injective {n n' : Nibble} (h : addrNibbleByte n = addrNibbleByte n') : n = n' := by
  rw [← midNibble_addrNibbleByte n, h, midNibble_addrNibbleByte]

/-- A length byte has the form of rule R88, with the width cut at 15. -/
theorem lenCode_eq_lenByte (w : Nat) : lenCode w = lenByte (BitVec.ofNat 4 (min w 15)) := by
  obtain hw | hw := Nat.le_total w 15
  · rw [min_eq_left hw, ← lenCode_eq, BitVec.toNat_ofNat, Nat.mod_eq_of_lt (by omega)]
  · rw [min_eq_right hw, lenCode_cap hw]
    rfl

theorem lenCode_toNat (w : Nat) : (lenCode w).toNat = 0xC2 + 4 * min w 15 := by
  rw [lenCode_eq_lenByte, lenByte_toNat, BitVec.toNat_ofNat]
  omega

/-- A byte of the form of rule R87 is ADDR_NIBBLE's. -/
theorem eq_addrNibbleByte {b : Byte} {n : Nibble} (h : b.toNat = 0x82 + 4 * n.toNat) : b = addrNibbleByte n :=
  BitVec.eq_of_toNat_eq (h.trans (addrNibbleByte_toNat n).symm)

/-- A byte of the form of rule R88 is LEN's. -/
theorem eq_lenByte {b : Byte} {w : Nibble} (h : b.toNat = 0xC2 + 4 * w.toNat) : b = lenByte w :=
  BitVec.eq_of_toNat_eq (h.trans (lenByte_toNat w).symm)

/-- The echo of an address nibble by its formula (rule R133). -/
theorem expectedEcho_addr_formula (p : Config.Params) {q : Nat} (hq : q < 4) (n : Nibble) :
    expectedEcho p q (addrNibbleByte n) = some (BitVec.ofNat 8 (q * 16 + n.toNat)) := by
  have hpos : BitVec.toNat (BitVec.ofNat 2 q) = q := Nat.mod_eq_of_lt hq
  have hval : (echoAddrByte (BitVec.ofNat 2 q) n).toNat = q * 16 + n.toNat := by
    rw [echoAddrByte_toNat, hpos, Nat.mul_comm]
  rw [expectedEcho_addr p hq, ← hval, BitVec.ofNat_toNat, BitVec.setWidth_eq]

/-- The echo of a length byte by its formula (rule R133). -/
theorem expectedEcho_len_formula (p : Config.Params) (w : Nibble) :
    expectedEcho p 4 (lenByte w) = some (BitVec.ofNat 8 (0x30 + w.toNat)) := by
  rw [expectedEcho_len, ← echoLenByte_toNat, BitVec.ofNat_toNat, BitVec.setWidth_eq]

/-! ### Commands -/

/-- A general command in arithmetic (rules R87, R88, R130). -/
theorem encodeCmd_formula (ha : a ≠ Config.specialAddr) (w : Nat) :
    encodeCmd a w = [BitVec.ofNat 8 (0x82 + 4 * (a.toNat / 4096)), BitVec.ofNat 8 (0x82 + 4 * (a.toNat / 256 % 16)),
      BitVec.ofNat 8 (0x82 + 4 * (a.toNat / 16 % 16)), BitVec.ofNat 8 (0x82 + 4 * (a.toNat % 16)),
      BitVec.ofNat 8 (min (0xC2 + 4 * w) 0xFE)] := by
  have htop : a.toNat / 4096 % 16 = a.toNat / 4096 := Nat.mod_eq_of_lt (by omega)
  simp [encodeCmd, ha, addrCode, lenCode, addrNibbleAt_toNat, htop, Config.addrCodeBase, Config.lenCodeBase,
    Config.lenCodeCap]

/-- Equal general commands have equal nibbles, and the lengths tell 0x0006 from the general addresses (rule R140 (d)). -/
theorem addr_eq_of_encodeCmd_eq (h : encodeCmd a w = encodeCmd a' w) : a = a' := by
  have hlen := congrArg List.length h
  rw [encodeCmd_length, encodeCmd_length] at hlen
  by_cases ha : a = Config.specialAddr
  · by_cases ha' : a' = Config.specialAddr
    · exact ha.trans ha'.symm
    · simp [ha, ha'] at hlen
  · by_cases ha' : a' = Config.specialAddr
    · simp [ha, ha'] at hlen
    · rw [encodeCmd_general ha, encodeCmd_general ha'] at h
      simp only [List.cons.injEq, and_true] at h
      obtain ⟨h0, h1, h2, h3⟩ := h
      refine addr_eq_of_nibbles fun i hi => addrNibbleByte_injective ?_
      obtain rfl | rfl | rfl | rfl : i = 0 ∨ i = 1 ∨ i = 2 ∨ i = 3 := by omega
      · exact h0
      · exact h1
      · exact h2
      · exact h3

end

/-- Settles O28: the bytes by their forms, and the lengths by `encodeCmd_length`. -/
theorem commandBytesInRange : Obligations.CommandBytesInRange := by
  intro a w _
  refine ⟨fun ha => ⟨?_, fun b hb => ?_⟩, ?_, ?_⟩
  · exact (encodeCmd_length a w).trans (if_neg ha)
  · rw [encodeCmd_general ha] at hb
    simp only [List.mem_cons, List.not_mem_nil, or_false] at hb
    obtain rfl | rfl | rfl | rfl | rfl := hb
    case inr.inr.inr.inr => rw [lenCode_toNat]; omega
    all_goals rw [addrNibbleByte_toNat]; omega
  · rw [encodeCmd_length]
    by_cases ha : a = Config.specialAddr
    · exact iff_of_true (if_pos ha) ha
    · exact iff_of_false (by simp [ha]) ha
  · rintro rfl
    exact encodeCmd_special w

/-- Settles O29: the address is read off the nibble bytes, and the width off the length byte, up to the cap. -/
theorem commandDeterminesRequest : Obligations.CommandDeterminesRequest := by
  refine ⟨fun _ _ _ => addr_eq_of_encodeCmd_eq, fun a w w' ha _ hw _ hw' h => ?_, fun a w hw => ?_⟩
  · rw [encodeCmd_general ha, encodeCmd_general ha] at h
    simp only [List.cons.injEq, true_and, and_true] at h
    have hlen := congrArg BitVec.toNat h
    rw [lenCode_toNat, lenCode_toNat] at hlen
    omega
  · rw [encodeCmd, encodeCmd, lenCode_cap hw, lenCode_cap le_rfl]

/-- Settles O30: at positions 0 to 3 the echo repeats a nibble, at position 4 the width. -/
theorem echoesOfGeneralCommand : Obligations.EchoesOfGeneralCommand := by
  intro p a w ha _
  have hlen : BitVec.toNat (BitVec.ofNat 4 (min w 15)) = min w 15 := by rw [BitVec.toNat_ofNat]; omega
  have htop : a.toNat / 4096 % 16 = a.toNat / 4096 := Nat.mod_eq_of_lt (by omega)
  rw [encodeCmd_general ha, lenCode_eq_lenByte]
  simp [List.range_succ, expectedEcho_addr_formula, expectedEcho_len_formula, addrNibbleAt_toNat, htop, hlen]

/-! ### Host operations -/

section
variable {s : State} {seq : Nibble} {cmd e : Byte}

theorem hostOp_legal {legal : Bool} (k : Result) (hs : s.st = .idle) (hl : legal = true) : hostOp legal s k = k := by
  simp [hostOp, hs, hl]

theorem hostOp_illegal {legal : Bool} (k : Result) (hs : s.st = .idle) (hl : legal = false) :
    hostOp legal s k = .next (s.deliver refusal) := by
  simp [hostOp, hs, hl]

/-- EXPECTED_ECHO on its domain answers the byte expected (rule R135). -/
theorem exec_expectedEcho_some (hs : s.st = .idle) (hd : echoDomain seq cmd = true)
    (he : expectedEcho s.params seq.toNat cmd = some e) :
    exec (.expectedEcho seq cmd) s = .next (s.deliver { status := .ok, n := some 1, bytes := [e] }) := by
  rw [exec, execExpectedEcho, hostOp_legal _ hs ((legalEcho_eq seq cmd).trans hd), he]

/-- Where no byte is expected it answers n = 0 (rule R134). -/
theorem exec_expectedEcho_none (hs : s.st = .idle) (hd : echoDomain seq cmd = true)
    (he : expectedEcho s.params seq.toNat cmd = none) :
    exec (.expectedEcho seq cmd) s = .next (s.deliver { status := .ok, n := some 0 }) := by
  rw [exec, execExpectedEcho, hostOp_legal _ hs ((legalEcho_eq seq cmd).trans hd), he]

end

/-- Settles O16: N = 0 is refused; any other N is answered with the command. -/
theorem encodeCommandAnswers : Obligations.EncodeCommandAnswers := by
  intro s n a hs
  refine ⟨?_, fun hn => ?_, fun hn ha => ?_⟩
  · rintro rfl
    exact hostOp_illegal _ hs rfl
  · rintro rfl
    exact hostOp_legal _ hs (bne_iff_ne.mpr hn)
  · rw [← encodeCmd_formula ha, ← (encodeCmd_length a n.toNat).trans (if_neg ha)]
    exact hostOp_legal _ hs (bne_iff_ne.mpr hn)

/-- Settles O17: the domain of rule R135 by its three parts, and the echo of each by its formula or its parameter. -/
theorem expectedEchoAnswers : Obligations.ExpectedEchoAnswers := by
  intro s seq cmd hs
  refine ⟨fun m hq hm hc => ?_, fun m hq hlo hhi hc => ?_, fun hq hc hp => ?_, fun v hq hc hp => ?_, fun hout => ?_⟩
  · have hn : BitVec.toNat (BitVec.ofNat 4 m) = m := Nat.mod_eq_of_lt hm
    obtain rfl : cmd = addrNibbleByte (BitVec.ofNat 4 m) := eq_addrNibbleByte (hn.symm ▸ hc)
    refine exec_expectedEcho_some hs (echoDomain_iff.mpr (.inl ⟨hq, m, hm, hc⟩)) ?_
    rw [expectedEcho_addr_formula _ hq, hn]
  · have hn : BitVec.toNat (BitVec.ofNat 4 m) = m := Nat.mod_eq_of_lt (by omega)
    obtain rfl : cmd = lenByte (BitVec.ofNat 4 m) := eq_lenByte (hn.symm ▸ hc)
    subst hq
    refine exec_expectedEcho_some hs (echoDomain_iff.mpr (.inr (.inr ⟨rfl, m, hlo, hhi, hc⟩))) ?_
    exact (expectedEcho_len_formula _ _).trans (by rw [hn])
  · subst hq hc
    exact exec_expectedEcho_none hs rfl hp
  · subst hq hc
    exact exec_expectedEcho_some hs rfl hp
  · refine hostOp_illegal _ hs ?_
    rw [legalEcho_eq, ← Bool.not_eq_true, echoDomain_iff]
    simpa [BitVec.toNat_eq] using hout

/-- Settles O25: a pure operation delivers one response, and `deliver` touches the responses and the trace alone. -/
theorem pureOperationsFrame : Obligations.PureOperationsFrame := by
  intro i s t hi hr h
  obtain ⟨-, r, d, rfl⟩ := execPure_next hi hr h
  exact ⟨⟨r, by simp⟩, by simp⟩

/-! ### Command bytes sent -/

section
variable {s : State} {q : Nat} {b : Byte}

/-- A command symbol at its position is the step CMD_SEND (rules R93, R136). -/
theorem sendCommandSymbol_at {position : Nat → Bool} (hs : s.st = .cmdSend) (hq : s.regs.seq = some q)
    (hb : s.regs.cmdAt q = some b) (hpos : position q = true) : sendCommandSymbol position b s = cmdSend s := by
  simp [sendCommandSymbol, hs, hq, hb, hpos]

end

/-- Settles O41: each of the three symbols is the step CMD_SEND; the two outcomes of its write. -/
theorem commandSymbolsAreSent : Obligations.CommandSymbolsAreSent := by
  intro s i q b rest hi hs ho hq hb
  have hsend : exec i s = cmdSend s := by
    obtain ⟨n, rfl, hlt, hv⟩ | ⟨w, rfl, rfl, hv⟩ | ⟨rfl, rfl, rfl⟩ := hi
    · cases eq_addrNibbleByte hv
      exact sendCommandSymbol_at hs hq hb (decide_eq_true hlt)
    · cases eq_lenByte hv
      exact sendCommandSymbol_at hs hq hb rfl
    · exact sendCommandSymbol_at hs hq hb rfl
  rw [hsend]
  refine ⟨fun hf => ?_, fun hf => ?_⟩
  · rw [cmdSend_next.mpr ⟨q, b, hq, hb, ho, .inr (.inl ⟨rest, hf, rfl⟩)⟩, State.emit_eq]
    rfl
  · rw [cmdSend_next.mpr ⟨q, b, hq, hb, ho, .inr (.inr ⟨rest, hf, rfl⟩)⟩, State.raise_emit_eq, State.written_st, hs]
    rfl

/-! ### Echoes judged -/

section
variable {s : State} {q len : Nat} {c v : Byte}

/-- The state after an echo `v` was read: registers `g`, and the sequencer in `next`. -/
def State.afterEcho (s : State) (v : Byte) (g : Regs) (next : SeqState) : State :=
  { s with st := next, regs := g, trace := s.traced [.rx (.byte v) .cmdEcho] }

variable (hs : s.st = .cmdEcho) (hq : s.regs.seq = some q) (hc : s.regs.cmdAt q = some c)
include hs hq hc

/-- A matching echo of the last command byte opens the data (rule R138). -/
theorem echoByte_last (hl : s.regs.cmdLen = some len) (he : expectedEcho s.params q c = some v) (hn : q + 1 = len) :
    echoByte v s = .next (s.afterEcho v { s.regs with seq := some (q + 1), k := some 0 } .dataRead) := by
  rw [echoByte_next.mpr ⟨q, c, _, hq, hc, rfl, .inl ⟨he, len, hl, .inl ⟨hn, rfl⟩⟩⟩, State.emit_eq, hs]
  rfl

/-- A matching echo before the last goes to the next command byte (rule R138). -/
theorem echoByte_more (hl : s.regs.cmdLen = some len) (he : expectedEcho s.params q c = some v) (hn : q + 1 ≠ len) :
    echoByte v s = .next (s.afterEcho v { s.regs with seq := some (q + 1) } .cmdSend) := by
  rw [echoByte_next.mpr ⟨q, c, _, hq, hc, rfl, .inl ⟨he, len, hl, .inr ⟨hn, rfl⟩⟩⟩, State.emit_eq, hs]
  rfl

/-- Any other byte raises EchoMismatch (rule R137). -/
theorem echoByte_mismatch (he : expectedEcho s.params q c ≠ some v) : echoByte v s = .next { s with
    st := .attFail
    regs := { s.regs with lastErr := some .echoMismatch }
    trace := s.traced [.error (.echoMismatch q (expectedEcho s.params q c) v) .cmdEcho, .rx (.byte v) .cmdEcho] } := by
  rw [echoByte_next.mpr ⟨q, c, _, hq, hc, rfl, .inr ⟨he, rfl⟩⟩, State.raise_emit_eq, hs]
  rfl

end

/-- Settles O43: in CMD_ECHO both echo symbols are the receipt of their byte, which is judged. -/
theorem echoSymbolsAreJudged : Obligations.EchoSymbolsAreJudged := by
  intro s i v c q len hi hs hq hc hl
  have hrec : exec i s = echoByte v s := by
    obtain ⟨z, n, rfl, hv⟩ | ⟨w, rfl, hv⟩ := hi
    · cases BitVec.eq_of_toNat_eq (hv.trans (echoAddrByte_toNat z n).symm)
      exact receiveByte_cmdEcho hs _
    · cases BitVec.eq_of_toNat_eq (hv.trans (echoLenByte_toNat w).symm)
      exact receiveByte_cmdEcho hs _
  rw [hrec]
  exact ⟨fun he hn => echoByte_more hs hq hc hl he hn, fun he hn => echoByte_last hs hq hc hl he hn,
    fun he => echoByte_mismatch hs hq hc he⟩

/-- Settles O44: the byte read is judged, symbol or not. -/
theorem matchingEchoAdvances : Obligations.MatchingEchoAdvances := by
  intro s e rest q len c v buf hr hs ho hq hc hl hrd hread he
  have hread' : s.readAt e rest =
      { s with ch := { s.ch with reads := rest, rxBuf := buf, log := .read (.byte v) :: s.ch.log } } := by
    rw [State.readAt, hread]
  rw [step_of_byte_read hr (.inr (.inl hs)) ho hrd hread, receiveByte_cmdEcho (s := s.readAt e rest) hs, hread']
  exact ⟨fun hn => echoByte_last hs hq hc hl he hn, fun hn => echoByte_more hs hq hc hl he hn⟩

end Sys2Proof.Machine

/-! PROOFS. The statements of the family 42_read_retry.md. -/

namespace Sys2Proof.Machine

/-! ### The checksum (rule R152) -/

theorem checksum_toNat (d : List Byte) : (checksum d).toNat = (d.map BitVec.toNat).sum % 256 := by
  simp [checksum]

/-- CHK_OK in arithmetic (rules R36, R152). -/
theorem chkOk_eq_decide (d : List Byte) (c : Byte) : chkOk d c = decide ((d.map BitVec.toNat).sum % 256 = c.toNat) := by
  rw [Bool.eq_iff_iff, chkOk_iff, decide_eq_true_iff, BitVec.toNat_eq, checksum_toNat]

/-- Settles O31: the sum mod 256 moves with a change of one byte, and stays where two changes cancel. -/
theorem checksumDetectsOneByte : Obligations.ChecksumDetectsOneByte := by
  refine ⟨fun before after b b' hne => ?_, fun d c hne => ?_, fun b0 b1 after => ?_⟩
  · have hval : b.toNat ≠ b'.toNat := fun h => hne (BitVec.eq_of_toNat_eq h)
    rw [chkOk_eq_decide, checksum_toNat]
    simp only [List.map_append, List.map_cons, List.sum_append, List.sum_cons, decide_eq_false_iff_not]
    omega
  · rw [← Bool.not_eq_true, chkOk_iff]
    exact hne.symm
  · rw [chkOk_eq_decide, checksum_toNat]
    simp only [List.map_cons, List.sum_cons, decide_eq_true_eq, BitVec.toNat_add, BitVec.toNat_sub]
    have h1 : (1 : Byte).toNat = 1 := rfl
    omega

/-! ### Host operations -/

/-- CHECK_DATA with legal operands answers whether the sum of its bytes is the checksum (rule R153). -/
theorem exec_checkData_legal {s : State} {n : Nibble} {b2 b1 : Byte} (hs : s.st = .idle)
    (hl : legalCheck n b2 b1 = true) (c b0 : Byte) :
    exec (.checkData n c b2 b1 b0) s = .next (s.deliver { status := .ok, ok := some (decide
      (((requestBytes n.toNat b2 b1 b0).map BitVec.toNat).sum % 256 = c.toNat)) }) := by
  rw [← chkOk_eq_decide]
  exact hostOp_legal _ hs hl

/-- CHECK_DATA's legal operands are lengths 1 to 3 with the bytes beyond the length zero (rule R82). -/
theorem legalCheck_iff {n : Nibble} {b2 b1 : Byte} :
    legalCheck n b2 b1 = true ↔ (n = 1 ∧ b2 = 0 ∧ b1 = 0) ∨ (n = 2 ∧ b2 = 0) ∨ n = 3 := by
  rw [legalCheck_eq, Bool.and_eq_true, widthInRange_iff, unusedBytesZero_iff]
  simp [BitVec.toNat_eq]
  omega

/-- Settles O18: the three legal lengths, and the refusal of all other operands. -/
theorem checkDataAnswers : Obligations.CheckDataAnswers := by
  intro s n c b2 b1 b0 hs
  refine ⟨?_, ?_, ?_, fun hout => ?_⟩
  · rintro rfl rfl rfl
    rw [exec_checkData_legal hs (legalCheck_iff.mpr (by simp))]
    simp [requestBytes, Nat.mod_eq_of_lt b0.isLt]
  · rintro rfl rfl
    rw [exec_checkData_legal hs (legalCheck_iff.mpr (by simp))]
    simp [requestBytes]
  · rintro rfl
    rw [exec_checkData_legal hs (legalCheck_iff.mpr (by simp))]
    simp [requestBytes, Nat.add_assoc]
  · refine hostOp_illegal _ hs ?_
    rwa [← Bool.not_eq_true, legalCheck_iff]

/-- Settles O24: READ accepted, stuck with no channel, and refused. -/
theorem readIsAccepted : Obligations.ReadIsAccepted := by
  intro s n a hs
  refine ⟨fun h1 h3 ho => ?_, fun h1 h3 ho => ?_, fun hout => ?_⟩
  · have hread := (execRead_next (n := n) (a := a)).mpr ⟨hs, .inl ⟨legalRead_iff.mpr ⟨h1, h3⟩, ho, rfl⟩⟩
    rw [State.emit_eq] at hread
    exact hread
  · exact (hostOp_legal _ hs (legalRead_iff.mpr ⟨h1, h3⟩)).trans (by simp [ho])
  · exact hostOp_illegal _ hs (by rwa [← Bool.not_eq_true, legalRead_iff])

/-! ### Sequencer steps -/

/-- A READ's response behind the event of its step: both stand in the trace, the response first (rules R34, R221). -/
theorem State.respond_emit_eq (s : State) (ev : TraceEvent) (r : Resp) :
    (s.emit ev).respond r = { s with
      st := .idle
      regs := Regs.unwritten
      responses := r :: s.responses
      trace := s.traced [.result r.status r.fails, ev] } := by
  cases s with
  | mk st regs traceEn => cases traceEn <;> rfl

/-- Settles O46: ATT_START loads ENCODE(REQ_ADDR, REQ_WIDTH). -/
theorem attemptStartBuildsCommand : Obligations.AttemptStartBuildsCommand := by
  intro s a w hr hs ha hw
  rw [step_attStart hr hs, attStart_next.mpr ⟨a, w, ha, hw, rfl⟩, State.emit_eq, Regs.startAttempt, encodeCmd_length,
    ha, hw]
  rfl

/-- Settles O51: ATT_FAIL counts an attempt that was not the last, or the fiftieth. -/
theorem failedAttemptIsCounted : Obligations.FailedAttemptIsCounted := by
  intro s att hr hs hatt
  rw [step_attFail hr hs]
  refine ⟨fun hne => ?_, fun hlast => ?_⟩
  · rw [attFail_next.mpr ⟨att, _, hatt, rfl, .inr ⟨hne, rfl⟩⟩, State.emit_eq, hatt]
    rfl
  · rw [attFail_next.mpr ⟨att, _, hatt, rfl, .inl ⟨hlast, rfl⟩⟩, State.setRegs_emit, State.respond_emit_eq, hatt]
    rfl

section
variable {s : State} {d : Vector (Option Byte) 3} {l : List Byte} {k : Nat} {w : Nibble}

/-! ### DATA -/

/-- DATA[0..w-1] is the bytes that its entries hold. -/
theorem dataBytes_of_entries {n : Nat} (hn : n ≤ l.length) (h : ∀ i, i < n → d[i]?.join = l[i]?) :
    dataBytes d n = some (l.take n) := by
  induction n with
  | zero => rfl
  | succ n ih =>
    have hentry : d[n]? = some (some l[n]) :=
      Option.join_eq_some_iff.mp ((h n n.lt_succ_self).trans (List.getElem?_eq_getElem hn))
    have hinit := ih (by omega) fun i hi => h i (by omega)
    rw [dataBytes, hinit, hentry, ← List.take_append_getElem hn]

/-- Storing at or above `n` leaves DATA[0..n-1] as it is. -/
theorem dataBytes_set_above {n : Nat} (h3 : k < 3) (hn : n ≤ k) (x : Option Byte) :
    dataBytes (d.set k x) n = dataBytes d n := by
  induction n with
  | zero => rfl
  | succ n ih =>
    have hentry : (d.set k x)[n]? = d[n]? := Vector.getElem?_set_ne h3 (by omega)
    rw [dataBytes, dataBytes, ih (by omega), hentry]

/-- A byte stored at K joins the bytes below K (rule R150). -/
theorem dataBytes_store (h3 : k < 3) (h : dataBytes d k = some l) (v : Byte) :
    dataBytes (d.set k (some v)) (k + 1) = some (l ++ [v]) := by
  rw [dataBytes, dataBytes_set_above h3 le_rfl, h, Vector.getElem?_set_self h3]

/-- DATA_READ stores its byte and counts it, and the last one is followed by the checksum (rule R150). -/
theorem dataByte_eq (hs : s.st = .dataRead) (hk : s.regs.k = some k) (hw : s.regs.reqWidth = some w) (h3 : k < 3)
    (v : Byte) : dataByte v s = .next { s with
      st := if k + 1 = w.toNat then .chkRead else .dataRead
      regs := { s.regs with data := s.regs.data.set k (some v), k := some (k + 1) }
      trace := s.traced [.rx (.byte v) .dataRead] } := by
  rw [dataByte_next.mpr ⟨k, w, _, h3, hk, hw, rfl, rfl⟩, State.emit_eq, hs]
  rfl

/-! ### The checksum byte -/

/-- A checksum that matches ends the READ with the data (rules R34, R154). -/
theorem chkByte_match {att : Nat} {c : Byte} (hs : s.st = .chkRead) (hw : s.regs.reqWidth = some w)
    (hatt : s.regs.att = some att) (hd : dataBytes s.regs.data w.toNat = some l) (hc : checksum l = c) :
    chkByte c s = .next { s with
      st := .idle
      regs := Regs.unwritten
      responses := { status := .ok, fails := some att, n := some w.toNat, bytes := l } :: s.responses
      trace := s.traced [.result .ok (some att), .rx (.byte c) .chkRead] } := by
  rw [chkByte_next.mpr ⟨w, l, _, hw, hd, rfl, .inl ⟨hc, att, hatt, rfl⟩⟩, State.setRegs_emit, State.respond_emit_eq,
    hs]
  rfl

/-- Any other checksum raises ChecksumMismatch (rules R151, R203). -/
theorem chkByte_mismatch {c : Byte} (hs : s.st = .chkRead) (hw : s.regs.reqWidth = some w)
    (hd : dataBytes s.regs.data w.toNat = some l) (hc : checksum l ≠ c) :
    chkByte c s = .next { s with
      st := .attFail
      regs := { s.regs with chk := some c, lastErr := some .checksumMismatch }
      trace := s.traced [.error (.checksumMismatch (checksum l) c) .chkRead, .rx (.byte c) .chkRead] } := by
  rw [chkByte_next.mpr ⟨w, l, _, hw, hd, rfl, .inr ⟨hc, rfl⟩⟩, State.setRegs_emit, State.raise_emit_eq, State.setRegs_st,
    hs]
  rfl

end

/-- Settles O47: in DATA_READ the symbol DATA is the receipt of its byte, which is stored. -/
theorem dataByteIsStored : Obligations.DataByteIsStored := by
  intro s d k w h3 hs hk hw
  exact (receiveByte_dataRead hs d).trans (dataByte_eq hs hk hw h3 d)

/-- Settles O48: in CHK_READ the symbol CHKSUM is the receipt of its byte, which is compared with the data's sum. -/
theorem checksumByteIsJudged : Obligations.ChecksumByteIsJudged := by
  intro s c w d att hs hw hatt hlen _ hentries
  have hd : dataBytes s.regs.data w.toNat = some d := by
    rw [dataBytes_of_entries hlen.ge hentries, List.take_of_length_le hlen.le]
  have hjudge : (d.map BitVec.toNat).sum % 256 = c.toNat ↔ checksum d = c := by
    rw [BitVec.toNat_eq, checksum_toNat]
  have hrec : exec (.chksum c) s = chkByte c s := receiveByte_chkRead hs c
  rw [hrec]
  exact ⟨fun hc => chkByte_match hs hw hatt hd (hjudge.mp hc), fun hc => chkByte_mismatch hs hw hd (mt hjudge.mpr hc)⟩

section
variable {s t u : State}

/-! ### A READ ends: every step that is not blocked takes one off its budget of steps -/

/-- A READ has the steps of the attempts after the present one, and what is left of the present one. -/
theorem State.stepsLeft_reading (h : s.st ≠ .idle) :
    s.stepsLeft = (49 - num s.regs.att) * stepsPerAttempt s.width + s.stepsLeftInAttempt := if_neg h

theorem State.stepsLeft_idle (h : s.st = .idle) : s.stepsLeft = 0 := if_pos h

/-- From ATT_START to CHK_READ an attempt has two steps left at least: the present one, and ATT_FAIL. -/
theorem State.two_le_stepsLeftInAttempt (h : 1 ≤ s.st.code ∧ s.st.code ≤ 9) : 2 ≤ s.stepsLeftInAttempt := by
  cases hs : s.st
  case idle | attFail | unused =>
    simp only [hs, SeqState.code] at h
    omega
  all_goals
    simp only [State.stepsLeftInAttempt, stepsPerAttempt, hs]
    omega

/-- A step that counts no attempt takes from the budget what it takes from the present attempt. -/
theorem stepsLeft_lt_of_sameAttempt (hs : s.st ≠ .idle) (hatt : t.regs.att = s.regs.att)
    (hw : t.regs.reqWidth = s.regs.reqWidth) (h : t.stepsLeftInAttempt < s.stepsLeftInAttempt) :
    t.stepsLeft < s.stepsLeft := by
  rw [State.stepsLeft_reading hs]
  by_cases ht : t.st = .idle
  · rw [State.stepsLeft_idle ht]; omega
  · rw [State.stepsLeft_reading ht, hatt, State.width_congr hw]; omega

/-- Raising an error leaves the attempt the one step ATT_FAIL. -/
theorem stepsLeft_lt_of_raise (hs : 1 ≤ s.st.code ∧ s.st.code ≤ 9) (e : LocalError) (hatt : u.regs.att = s.regs.att)
    (hw : u.regs.reqWidth = s.regs.reqWidth) : (u.raise e).stepsLeft < s.stepsLeft := by
  refine stepsLeft_lt_of_sameAttempt (fun h => by simp [h, SeqState.code] at hs) (by simp [hatt]) (by simp [hw]) ?_
  have hone : (u.raise e).stepsLeftInAttempt = 1 := by simp [State.stepsLeftInAttempt]
  have htwo := State.two_le_stepsLeftInAttempt hs
  omega

/-- A step of a READ that is not blocked takes at least one off its budget of steps: a round has 13 with its backoff, a
command byte has two, and an attempt that fails gives up what it had left (rules R121, R159). -/
theorem Transition.stepsLeft_lt (h : Transition s t) (hi : s.Inv) (hs : s.st ≠ .idle) (hr : s.resetIn = false)
    (hb : ¬s.Blocked) : t.stepsLeft < s.stepsLeft := by
  cases h with
  | blockReset h => simp [hr] at h
  | waiting h => exact absurd h hb
  | readStart h | answered h => exact absurd h hs
  | attempt h =>
    refine stepsLeft_lt_of_sameAttempt hs (by simp [Regs.startAttempt]) (by simp [Regs.startAttempt]) ?_
    simp [State.stepsLeftInAttempt, h, State.width, Regs.startAttempt, stepsPerAttempt]
  | flushed h =>
    obtain ⟨_, _, _, _, hA, hrnd, -⟩ := hi.attempt h (by decide)
    refine stepsLeft_lt_of_sameAttempt hs (by simp) (by simp) ?_
    simp [State.stepsLeftInAttempt, h, State.width, hA.rnd]
    omega
  | resetSent h =>
    refine stepsLeft_lt_of_sameAttempt hs (by simp) (by simp) ?_
    simp [State.stepsLeftInAttempt, h, State.width]
  | polled h _ hp _ hg =>
    obtain ⟨a, w, _, _, hA, -, -, ⟨_, hp', hlt⟩, -⟩ := hi.attempt h (by decide)
    cases hp'.symm.trans hp
    have hlen := encodeCmd_length_le a w.toNat
    obtain ⟨-, rfl, rfl⟩ | ⟨-, rfl, -, rfl⟩ | ⟨rfl, rfl⟩ := hg
    all_goals
      refine stepsLeft_lt_of_sameAttempt hs (by simp) (by simp) ?_
      simp [State.stepsLeftInAttempt, h, State.width, hp, hA.cmdLen]
      omega
  | backoff h hn =>
    refine stepsLeft_lt_of_sameAttempt hs (by simp) (by simp) ?_
    simp [State.stepsLeftInAttempt, h, State.width, hn]
  | commandSent h hq =>
    obtain ⟨_, _, _, _, hA, -, -, -, ⟨_, hq', hlt⟩, -⟩ := hi.attempt h (by decide)
    cases hq'.symm.trans hq
    refine stepsLeft_lt_of_sameAttempt hs (by simp) (by simp) ?_
    simp [State.stepsLeftInAttempt, h, State.width, hq, hA.cmdLen]
    omega
  | echoed h _ _ hq _ _ hl hg =>
    obtain ⟨_, _, _, _, hA, -, -, -, ⟨_, hq', hlt⟩, -⟩ := hi.attempt h (by decide)
    cases hq'.symm.trans hq
    cases hA.cmdLen.symm.trans hl
    obtain ⟨-, rfl, rfl⟩ | ⟨-, rfl, rfl⟩ := hg
    all_goals
      refine stepsLeft_lt_of_sameAttempt hs (by simp) (by simp) ?_
      simp [State.stepsLeftInAttempt, h, State.width, hq, hl]
      omega
  | dataStored h _ _ _ hk hw =>
    obtain ⟨_, _, _, _, hA, -, -, -, -, ⟨_, hlt, hk', -⟩, -⟩ := hi.attempt h (by decide)
    cases hk'.symm.trans hk
    cases hA.reqWidth.symm.trans hw
    refine stepsLeft_lt_of_sameAttempt hs (by simp) (by simp) ?_
    split
    all_goals
      simp [State.stepsLeftInAttempt, h, State.width, hk, hw]
      omega
  | succeeded h =>
    have htwo := State.two_le_stepsLeftInAttempt (s := s) (by simp [h, SeqState.code])
    rw [State.stepsLeft_reading hs, State.stepsLeft_idle (by simp)]
    omega
  | @retried n h hn hlt =>
    obtain ⟨_, _, _, hR⟩ := hi.readInProgress hs
    cases hR.failed.symm.trans hn
    have hb := hR.budget
    rw [State.stepsLeft_reading hs, State.stepsLeft_reading (by simp)]
    have hmore : 49 - n = 48 - n + 1 := by omega
    simp [State.stepsLeftInAttempt, h, State.width, hn, hmore, Nat.succ_mul]
  | exhausted h =>
    rw [State.stepsLeft_reading hs, State.stepsLeft_idle (by simp)]
    simp [State.stepsLeftInAttempt, h]
  | flushFailed h | resetFailed h | commandFailed h | checksumMismatched h | handshakeFailed h =>
    exact stepsLeft_lt_of_raise (by simp [h, SeqState.code]) _ (by simp) (by simp)
  | readFailed h =>
    have hc : 1 ≤ s.st.code ∧ s.st.code ≤ 9 := by obtain h | h | h := h <;> simp [h, SeqState.code]
    exact stepsLeft_lt_of_raise hc _ (by simp) (by simp)

/-- An answer that leaves its script stands in the transcript: a step spends no answer without a channel operation. -/
theorem Transition.answers_spent (h : Transition s t) :
    channelOps s.ch.log + s.ch.flushes.length ≤ channelOps t.ch.log + t.ch.flushes.length ∧
    channelOps s.ch.log + s.ch.writes.length ≤ channelOps t.ch.log + t.ch.writes.length ∧
    channelOps s.ch.log + s.ch.reads.length ≤ channelOps t.ch.log + t.ch.reads.length := by
  cases h with
  | flushed _ hf | flushFailed _ hf | resetSent _ hf | resetFailed _ hf | commandSent _ _ _ hf | commandFailed _ _ _ hf =>
    simp [hf]; omega
  | polled _ hrd | echoed _ hrd | readFailed _ hrd | dataStored _ _ hrd | succeeded _ hrd | checksumMismatched _ hrd =>
    simp [hrd]; omega
  | _ => simp

/-- Where the channel has an answer for every operation left, the block does not wait. -/
theorem State.not_blocked_of_answers (hs : s.st ≠ .idle) (ha : s.answers s.opsLeft) : ¬s.Blocked := by
  rw [State.opsLeft_reading hs] at ha
  obtain ⟨hf, hw, hrd⟩ := ha
  rintro (⟨h, -⟩ | ⟨h, hnil⟩ | ⟨h, hnil⟩ | ⟨h, hnil⟩)
  · exact hs h
  · have hpos := State.opsLeftInAttempt_pos (s := s) (by simp [h, SeqState.code])
    simp [hnil] at hf
    omega
  · have hpos := State.opsLeftInAttempt_pos (s := s) (by obtain h | h := h <;> simp [h, SeqState.code])
    simp [hnil] at hw
    omega
  · have hpos := State.opsLeftInAttempt_pos (s := s) (by obtain h | h | h | h := h <;> simp [h, SeqState.code])
    simp [hnil] at hrd
    omega

/-- A step of a READ delivers a response exactly when it ends in IDLE (rules R205, R210). -/
theorem Transition.response_at_end (h : Transition s t) (hs : s.st ≠ .idle) (hr : s.resetIn = false) :
    (t.st = .idle ∧ ∃ r, t.responses = r :: s.responses) ∨ (t.st ≠ .idle ∧ t.responses = s.responses) := by
  cases h with
  | blockReset h => simp [hr] at h
  | readStart h | answered h => exact absurd h hs
  | waiting => exact .inr ⟨hs, rfl⟩
  | succeeded | exhausted => exact .inl ⟨by simp, by simp⟩
  | polled _ _ _ _ hg =>
    refine .inr ⟨?_, by simp⟩
    obtain ⟨-, rfl, -⟩ | ⟨-, rfl, -⟩ | ⟨rfl, -⟩ := hg <;> simp
  | echoed _ _ _ _ _ _ _ hg =>
    refine .inr ⟨?_, by simp⟩
    obtain ⟨-, rfl, -⟩ | ⟨-, rfl, -⟩ := hg <;> simp
  | dataStored =>
    refine .inr ⟨?_, by simp⟩
    rw [State.goto_st]
    split <;> decide
  | _ => exact .inr ⟨by simp, by simp⟩

/-- No step asserts the block reset (notes/assumptions/13.md). -/
theorem Transition.keeps_released (h : Transition s t) (hr : s.resetIn = false) : t.resetIn = false := by
  cases h <;> simp [hr]

/-! ### Runs -/

/-- A run goes on from what its first step answers. -/
theorem core_run_of_step {M : Host.Core} {x y : M.State} (h : M.step x = .next y) (n : Nat) :
    M.run (n + 1) x = M.run n y := by
  rw [Host.Core.run, h]

/-- `core_run_of_step` for this machine, whose step is `step`. -/
theorem run_of_step (h : step s = .next t) (n : Nat) : Sys2Proof.core.run (n + 1) s = Sys2Proof.core.run n t :=
  core_run_of_step (M := Sys2Proof.core) h n

/-- A READ whose channel has an answer for every operation left ends, by induction on the steps left: a step is not
blocked, and leaves fewer steps and answers enough for what remains. -/
theorem State.Inv.read_ends (hi : s.Inv) (hs : s.st ≠ .idle) (hr : s.resetIn = false) (ha : s.answers s.opsLeft) :
    ∃ n t, n ≤ s.stepsLeft ∧ Sys2Proof.core.run n s = .next t ∧ t.st = .idle ∧
      (∃ r, t.responses = r :: s.responses) ∧ channelOps t.ch.log ≤ channelOps s.ch.log + s.opsLeft := by
  induction hm : s.stepsLeft using Nat.strong_induction_on generalizing s with
  | _ m ih =>
    subst hm
    obtain ⟨t, hstep⟩ := hi.read_progress hr hs
    have ht := transition_of_step hstep
    have hless := ht.stepsLeft_lt hi hs hr (State.not_blocked_of_answers hs ha)
    have hpaid := ht.opsLeft_le hi hs hr
    obtain ⟨hidle, hresp⟩ | ⟨hreading, hresp⟩ := ht.response_at_end hs hr
    · exact ⟨1, t, by omega, run_of_step hstep 0, hidle, hresp, by omega⟩
    · have hanswers : t.answers t.opsLeft := by
        obtain ⟨hf, hw, hrd⟩ := ha
        obtain ⟨hf', hw', hrd'⟩ := ht.answers_spent
        exact ⟨by omega, by omega, by omega⟩
      obtain ⟨n, u, hn, hrun, hidle, ⟨r, hone⟩, hops⟩ :=
        ih t.stepsLeft hless (ht.keeps_inv hi) hreading (ht.keeps_released hr) hanswers rfl
      exact ⟨n + 1, u, by omega, (run_of_step hstep n).trans hrun, hidle, ⟨r, hone.trans (by rw [hresp])⟩, by omega⟩

end

/-- Settles O59, which is `State.Inv.read_ends`. -/
theorem readEndsWithinItsBudget : Obligations.ReadEndsWithinItsBudget :=
  fun _ hi hs hr ha => hi.read_ends hs hr ha

/-! ### A READ against a correct console -/

/-- A run from `s` comes to a state with `P`. -/
def Reaches (s : State) (P : State → Prop) : Prop := ∃ n t, Sys2Proof.core.run n s = .next t ∧ P t

/-- What stands at a moment of a READ that began in `s`: the sequencer in `q` with the registers `g`, no byte waiting, and
the answers `wr` and `rd` to come; no response yet, and the host's further requests in their queue. -/
structure Midway (s : State) (q : SeqState) (g : Regs) (wr : List IoResult) (rd : List RdEvent) (u : State) : Prop where
  st : u.st = q
  regs : u.regs = g
  released : u.resetIn = false
  isOpen : u.ch.isOpen = true
  rxBuf : u.ch.rxBuf = []
  writes : u.ch.writes = wr
  reads : u.ch.reads = rd
  requests : u.requests = s.requests.tail
  responses : u.responses = s.responses
  params : u.params = s.params

section
variable {s t u : State} {P : State → Prop} {q : SeqState} {g : Regs} {wr : List IoResult} {rd : List RdEvent} {v b : Byte}
  {i len : Nat} {w : Nibble}

theorem Reaches.here (h : P s) : Reaches s P := ⟨0, s, rfl, h⟩

theorem Reaches.step (h : step s = .next t) (ht : Reaches t P) : Reaches s P := by
  obtain ⟨n, u, hrun, hu⟩ := ht
  exact ⟨n + 1, u, (run_of_step h n).trans hrun, hu⟩

/-! One lemma for each step of the exchange. -/

/-- What the next moment keeps, whatever the sequencer, the registers and the trace become. -/
theorem Midway.moved (h : Midway s q g wr rd u) (q' : SeqState) (g' : Regs) (tr : List TraceEvent) :
    Midway s q' g' wr rd { u with st := q', regs := g', trace := tr } :=
  ⟨rfl, rfl, h.released, h.isOpen, h.rxBuf, h.writes, h.reads, h.requests, h.responses, h.params⟩

/-- The reset byte goes out and POLL starts at 0 (rule R112). -/
theorem Midway.resetSent (h : Midway s .hsReset g (.ok :: wr) rd u) :
    ∃ t, step u = .next t ∧ Midway s .hsPoll { g with poll := some 0 } wr rd t := by
  obtain ⟨hst, rfl, hr, ho, hbuf, hw, hrd, hreq, hresp, hpar⟩ := h
  refine ⟨_, (step_hsReset hr hst).trans (hsReset_next.mpr ⟨ho, .inr (.inl ⟨wr, _, hw, rfl, rfl⟩)⟩), ?_⟩
  constructor <;> simp [*]

/-- A command byte goes out (rule R136). -/
theorem Midway.commandSent (h : Midway s .cmdSend g (.ok :: wr) rd u) (hi : g.seq = some i) (hb : g.cmdAt i = some b) :
    ∃ t, step u = .next t ∧ Midway s .cmdEcho g wr rd t := by
  obtain ⟨hst, rfl, hr, ho, hbuf, hw, hrd, hreq, hresp, hpar⟩ := h
  refine ⟨_, (step_cmdSend hr hst).trans (cmdSend_next.mpr ⟨i, b, hi, hb, ho, .inr (.inl ⟨wr, hw, rfl⟩)⟩), ?_⟩
  constructor <;> simp [*]

/-- A read takes the byte that arrives, since none waits. -/
theorem Midway.byteRead (h : Midway s q g wr (.arrived [v] :: rd) u)
    (hq : q = .hsPoll ∨ q = .cmdEcho ∨ q = .dataRead ∨ q = .chkRead) :
    ∃ t, step u = receiveByte v t ∧ Midway s q g wr rd t := by
  obtain ⟨rfl, hg, hr, ho, hbuf, hw, hrd, hreq, hresp, hpar⟩ := h
  have hread : readFrom u.ch.rxBuf (.arrived [v]) = (.byte v, []) := by rw [hbuf]; rfl
  refine ⟨_, step_of_byte_read hr hq ho hrd hread, ?_⟩
  constructor <;> simp [*, readFrom]

/-- READY opens the command (rule R115). -/
theorem Midway.pollReady (h : Midway s .hsPoll g wr (.arrived [0x02] :: rd) u) (hp : g.poll = some i) :
    ∃ t, step u = .next t ∧ Midway s .cmdSend { g with poll := some (i + 1), seq := some 0 } wr rd t := by
  obtain ⟨t, hread, ht⟩ := h.byteRead (by simp)
  obtain rfl := ht.regs
  exact ⟨_, hread.trans ((receiveByte_hsPoll ht.st _).trans (pollByte_ready ht.st hp)), ht.moved ..⟩

/-- A matching echo goes to the next command byte (rule R138). -/
theorem Midway.echoed (h : Midway s .cmdEcho g wr (.arrived [v] :: rd) u) (hi : g.seq = some i)
    (hb : g.cmdAt i = some b) (hl : g.cmdLen = some len) (he : expectedEcho s.params i b = some v) (hn : i + 1 ≠ len) :
    ∃ t, step u = .next t ∧ Midway s .cmdSend { g with seq := some (i + 1) } wr rd t := by
  obtain ⟨t, hread, ht⟩ := h.byteRead (by simp)
  obtain rfl := ht.regs
  rw [← ht.params] at he
  exact ⟨_, hread.trans ((receiveByte_cmdEcho ht.st v).trans (echoByte_more ht.st hi hb hl he hn)), ht.moved ..⟩

/-- The last matching echo opens the data (rule R138). -/
theorem Midway.lastEchoed (h : Midway s .cmdEcho g wr (.arrived [v] :: rd) u) (hi : g.seq = some i)
    (hb : g.cmdAt i = some b) (hl : g.cmdLen = some len) (he : expectedEcho s.params i b = some v) (hn : i + 1 = len) :
    ∃ t, step u = .next t ∧ Midway s .dataRead { g with seq := some (i + 1), k := some 0 } wr rd t := by
  obtain ⟨t, hread, ht⟩ := h.byteRead (by simp)
  obtain rfl := ht.regs
  rw [← ht.params] at he
  exact ⟨_, hread.trans ((receiveByte_cmdEcho ht.st v).trans (echoByte_last ht.st hi hb hl he hn)), ht.moved ..⟩

/-- A data byte is stored and counted (rule R150). -/
theorem Midway.dataStored (h : Midway s .dataRead g wr (.arrived [v] :: rd) u) (hk : g.k = some i)
    (hw : g.reqWidth = some w) (h3 : i < 3) :
    ∃ t, step u = .next t ∧ Midway s (if i + 1 = w.toNat then .chkRead else .dataRead)
      { g with data := g.data.set i (some v), k := some (i + 1) } wr rd t := by
  obtain ⟨t, hread, ht⟩ := h.byteRead (by simp)
  obtain rfl := ht.regs
  exact ⟨_, hread.trans ((receiveByte_dataRead ht.st v).trans (dataByte_eq ht.st hk hw h3 v)), ht.moved ..⟩

/-! The three parts of the exchange. -/

/-- The command from byte `i` on, each byte echoed by the next of `es`, leads to the data (rules R136 to R138). -/
theorem Midway.reaches_data {es : List Byte} (h : Midway s .cmdSend g (List.replicate es.length .ok ++ wr)
      (es.map (fun v => .arrived [v]) ++ rd) u)
    (hne : es ≠ []) (hi : g.seq = some i) (hl : g.cmdLen = some (i + es.length))
    (he : ∀ j (hj : j < es.length), (g.cmdAt (i + j)).bind (expectedEcho s.params (i + j)) = some es[j])
    (hP : ∀ t, Midway s .dataRead { g with seq := some (i + es.length), k := some 0 } wr rd t → Reaches t P) :
    Reaches u P := by
  induction es generalizing i g u with
  | nil => exact absurd rfl hne
  | cons e es ih =>
    obtain ⟨b, hb, heb⟩ := Option.bind_eq_some_iff.mp (he 0 (by simp))
    obtain ⟨t, hsent, ht⟩ := h.commandSent hi hb
    refine .step hsent ?_
    cases es with
    | nil =>
      obtain ⟨t', hecho, ht'⟩ := ht.lastEchoed hi hb hl heb (by simp)
      exact .step hecho (hP t' ht')
    | cons e' es =>
      obtain ⟨t', hecho, ht'⟩ := ht.echoed hi hb hl heb (by simp)
      refine .step hecho (ih ht' (by simp) rfl ?_ ?_ ?_)
      · simp [hl]; omega
      · intro j hj
        have hnext := he (j + 1) (by simpa using hj)
        rw [show i + (j + 1) = i + 1 + j by omega] at hnext
        exact hnext
      · intro t ht
        refine hP t ?_
        rw [show i + (e :: e' :: es).length = i + 1 + (e' :: es).length by simp; omega]
        exact ht

/-- The data after the bytes `l`, up to REQ_WIDTH, leads to the checksum with all of it in DATA (rule R150). -/
theorem Midway.reaches_checksum {l ds : List Byte} (h : Midway s .dataRead g wr (ds.map (fun v => .arrived [v]) ++ rd) u)
    (hne : ds ≠ []) (hk : g.k = some l.length) (hw : g.reqWidth = some w) (hlen : l.length + ds.length = w.toNat)
    (h3 : w.toNat ≤ 3) (hd : dataBytes g.data l.length = some l)
    (hP : ∀ t g', Midway s .chkRead g' wr rd t → g'.reqWidth = some w → g'.att = g.att →
      dataBytes g'.data w.toNat = some (l ++ ds) → Reaches t P) : Reaches u P := by
  induction ds generalizing l g u with
  | nil => exact absurd rfl hne
  | cons v ds ih =>
    have hlt : l.length < 3 := by simp at hlen; omega
    obtain ⟨t, hstep, ht⟩ := h.dataStored hk hw hlt
    have hd' := dataBytes_store hlt hd v
    refine .step hstep ?_
    cases ds with
    | nil =>
      have hlast : l.length + 1 = w.toNat := hlen
      rw [if_pos hlast] at ht
      rw [hlast] at hd'
      exact hP t _ ht hw rfl hd'
    | cons v' ds =>
      rw [if_neg (by simp at hlen; omega)] at ht
      refine ih (l := l ++ [v]) ht (by simp) (by simp) hw (by simp at hlen ⊢; omega) (by simpa using hd') ?_
      intro t g' ht hw' hatt hall
      exact hP t g' ht hw' hatt (by simpa using hall)

/-- A checksum that matches ends the READ with the data (rule R154). -/
theorem Midway.reaches_answer {d : List Byte} {att : Nat} (h : Midway s .chkRead g wr (.arrived [v] :: rd) u)
    (hw : g.reqWidth = some w) (hatt : g.att = some att) (hd : dataBytes g.data w.toNat = some d)
    (hc : checksum d = v) :
    Reaches u fun t => t.st = .idle ∧ t.regs = Regs.unwritten ∧ t.requests = s.requests.tail ∧
      t.responses = { status := .ok, fails := some att, n := some w.toNat, bytes := d } :: s.responses := by
  obtain ⟨t, hread, ht⟩ := h.byteRead (by simp)
  obtain rfl := ht.regs
  refine .step (hread.trans ((receiveByte_chkRead ht.st v).trans (chkByte_match ht.st hw hatt hd hc))) (.here ?_)
  exact ⟨rfl, rfl, ht.requests, by simp [ht.responses]⟩

end

/-! The opening, and the whole. -/

/-- What a console that echoes a command of `a` and `w` correctly sends (rules R91, R141). -/
def correctEchoes (a : Addr) (w : Nat) : List Byte :=
  [BitVec.ofNat 8 (a.toNat / 4096), BitVec.ofNat 8 (0x10 + a.toNat / 256 % 16), BitVec.ofNat 8 (0x20 + a.toNat / 16 % 16),
    BitVec.ofNat 8 (0x30 + a.toNat % 16), BitVec.ofNat 8 (0x30 + w)]

/-- They are the echoes expected of the loaded command, at each of its positions. -/
theorem expectedEcho_of_loadCmd (p : Config.Params) {a : Addr} {w : Nat} (ha : a ≠ 0x0006) (h1 : 1 ≤ w) (h15 : w ≤ 15)
    (j : Nat) (hj : j < (correctEchoes a w).length) :
    (loadCmd (encodeCmd a w))[j]?.join.bind (expectedEcho p j) = some (correctEchoes a w)[j] := by
  have hall := echoesOfGeneralCommand p a w ha h1
  rw [min_eq_left h15] at hall
  have hmap : (List.range 5).map (fun q => (encodeCmd a w)[q]?.bind (expectedEcho p q)) =
      (correctEchoes a w).map some := hall
  have hat := congrArg (fun l => l[j]?) hmap
  rw [cmdAt_loadCmd hj]
  simpa [List.getElem?_range (show j < 5 from hj), List.getElem?_eq_getElem hj] using hat

/-- From IDLE a legal READ is taken, its first attempt starts, and its flush empties the buffer (rules R111, R156,
R157). -/
theorem reaches_handshake {s : State} {P : State → Prop} {n : Nibble} {a : Addr} {rest : List RequestWord}
    {fl : List IoResult} (hr : s.resetIn = false) (hs : s.st = .idle) (ho : s.ch.isOpen = true)
    (hl : legalRead n = true) (hq : s.requests = packRequest 0x1 n a 0 0 0 :: rest) (hf : s.ch.flushes = .ok :: fl)
    (hP : ∀ t g, Midway s .hsReset g s.ch.writes s.ch.reads t → g.reqWidth = some n → g.att = some 0 →
      g.cmd = loadCmd (encodeCmd a n.toNat) → g.cmdLen = some (encodeCmd a n.toNat).length → Reaches t P) :
    Reaches s P := by
  have hd : decode .request (.request (packRequest 0x1 n a 0 0 0)) = .ok (.read n a) :=
    decode_encode_hostOp (i := .read n a) rfl
  have hread := (execRead_next (s := { s with requests := rest }) (a := a)).mpr ⟨hs, .inl ⟨hl, ho, rfl⟩⟩
  refine .step ((step_idle hr hs).trans ((idleStep_of_decode hq hd).trans hread)) ?_
  refine .step ((step_attStart (by simpa using hr) (by simp)).trans
    (attStart_next.mpr ⟨a, n, by simp, by simp, rfl⟩)) ?_
  refine .step ((step_hsFlush (by simpa using hr) (by simp)).trans
    (hsFlush_next.mpr ⟨by simpa using ho, .inr (.inl ⟨fl, by simpa using hf, rfl⟩)⟩)) ?_
  refine hP _ (Regs.startAttempt (encodeCmd a n.toNat)
    { s.regs with reqAddr := some a, reqWidth := some n, att := some 0 }) ?_ rfl rfl rfl rfl
  constructor <;> simp [State.flushed_ok_ch, *]

/-- Settles O60: the opening, the handshake with its READY, the command with its echoes, the data, and the checksum that
matches. -/
theorem correctConsoleIsReadAtOnce : Obligations.CorrectConsoleIsReadAtOnce := by
  intro s a n d rest fl wr rd _ hs hr ho ha h1 h3 hlen hq hf hw hrd
  have hreads : s.ch.reads = .arrived [0x02] :: ((correctEchoes a n.toNat).map (fun v => RdEvent.arrived [v]) ++
      (d.map (fun v => RdEvent.arrived [v]) ++ (.arrived [checksum d] :: rd))) := by
    simpa [correctEchoes, checksum] using hrd
  have hwrites : s.ch.writes = .ok :: (List.replicate (correctEchoes a n.toNat).length .ok ++ wr) := hw
  refine reaches_handshake hr hs ho (legalRead_iff.mpr ⟨h1, h3⟩) hq hf fun t g ht hn hatt hcmd hcmdLen => ?_
  rw [hreads, hwrites] at ht
  rw [(encodeCmd_length a n.toNat).trans (if_neg ha)] at hcmdLen
  obtain ⟨t, hsent, ht⟩ := ht.resetSent
  obtain ⟨t', hready, ht⟩ := ht.pollReady rfl
  have hechoes : ∀ j (hj : j < (correctEchoes a n.toNat).length),
      (g.cmdAt (0 + j)).bind (expectedEcho s.params (0 + j)) = some (correctEchoes a n.toNat)[j] := by
    intro j hj
    rw [Nat.zero_add, Regs.cmdAt, hcmd]
    exact expectedEcho_of_loadCmd s.params ha h1 (by omega) j hj
  refine .step hsent (.step hready (ht.reaches_data (by simp [correctEchoes]) rfl hcmdLen hechoes fun t ht => ?_))
  refine ht.reaches_checksum (l := []) (by rintro rfl; simp at hlen; omega) rfl hn (by simpa using hlen) h3 rfl
    fun t g' ht hn' hatt' hd => ?_
  obtain ⟨k, u, hrun, hidle, hregs, hreq, hresp⟩ := ht.reaches_answer hn' (hatt'.trans hatt) hd rfl
  exact ⟨k, u, hrun, hidle, hregs, by simpa [hq] using hreq, by simpa using hresp⟩

end Sys2Proof.Machine

/-! PROOFS. The statements of the family 43_decoder.md. -/

namespace Sys2Proof.Machine

/-! ### Nibbles by their arithmetic (rule R10) -/

theorem hiN_eq (b : Byte) : hiN b = b.toNat / 16 := by
  rw [hiN, hi, extract_toNat]
  omega

theorem loN_eq (b : Byte) : loN b = b.toNat % 16 := by
  rw [loN, lo, extract_toNat]
  omega

theorem hi_eq_ofNat (b : Byte) : hi b = BitVec.ofNat 4 (b.toNat / 16) := by
  rw [← hiN_eq, hiN, BitVec.ofNat_toNat, BitVec.setWidth_eq]

theorem lo_eq_ofNat (b : Byte) : lo b = BitVec.ofNat 4 (b.toNat % 16) := by
  rw [← loN_eq, loN, BitVec.ofNat_toNat, BitVec.setWidth_eq]

theorem hiN_le (b : Byte) : hiN b ≤ 15 := Nat.lt_succ_iff.mp (hi b).isLt

theorem loN_le (b : Byte) : loN b ≤ 15 := Nat.lt_succ_iff.mp (lo b).isLt

/-! ### The decoder formulas on the bytes' numbers (rules R174 to R180) -/

theorem temperatureExact_formula (b1 b0 : Byte) : temperatureExact b1 b0 =
    10 * (b0.toNat / 16) + b0.toNat % 16 + 1000 * (b1.toNat / 16) + 100 * (b1.toNat % 16) - 3000 := by
  simp [temperatureExact, hiN_eq, loN_eq]

theorem precipitationExact_formula (b2 b1 b0 : Byte) : precipitationExact b2 b1 b0 =
    10 * (b0.toNat / 16) + b0.toNat % 16 + 1000 * (b1.toNat / 16) + 100 * (b1.toNat % 16) +
      100000 * (b2.toNat / 16) + 10000 * (b2.toNat % 16) := by
  simp [precipitationExact, hiN_eq, loN_eq]

theorem humidityValue_formula (b0 : Byte) : humidityValue b0 = 10 * (b0.toNat / 16) + b0.toNat % 16 := by
  simp [humidityValue, hiN_eq, loN_eq]

theorem windSpeedValue_formula (b1 b0 : Byte) : windSpeedValue b1 b0 = 256 * (b1.toNat % 16) + b0.toNat := by
  simp [windSpeedValue, loN_eq]

theorem pressureValue_formula (b2 b1 b0 : Byte) : pressureValue b2 b1 b0 =
    10 * (b0.toNat / 16) + b0.toNat % 16 + 1000 * (b1.toNat / 16) + 100 * (b1.toNat % 16) +
      10000 * (b2.toNat % 16) := by
  simp [pressureValue, hiN_eq, loN_eq]

theorem bearingValue_formula (b0 : Byte) : bearingValue (hi b0) = 225 * (b0.toNat / 16) := by
  rw [bearingValue, ← hiN, hiN_eq]
  push_cast
  rfl

/-- Settles O32: each formula is monotone in nibbles of 0 to 15, and two bytes write a wind speed in base 256. -/
theorem decoderRanges : Obligations.DecoderRanges := by
  refine ⟨fun b1 b0 => ?_, fun b1 b0 => ?_, fun v hv => ?_, fun b2 b1 b0 => ?_, ?_⟩
  · have h0 := hiN_le b0
    have l0 := loN_le b0
    have h1 := hiN_le b1
    have l1 := loN_le b1
    unfold temperatureExact
    omega
  · have l1 := loN_le b1
    have := b0.isLt
    unfold windSpeedValue
    omega
  · refine ⟨BitVec.ofNat 8 (v / 256), BitVec.ofNat 8 v, ?_⟩
    rw [windSpeedValue_formula, BitVec.toNat_ofNat, BitVec.toNat_ofNat]
    omega
  · have h0 := hiN_le b0
    have l0 := loN_le b0
    have h1 := hiN_le b1
    have l1 := loN_le b1
    have h2 := hiN_le b2
    have l2 := loN_le b2
    unfold precipitationExact
    omega
  · decide

/-! ### Rounding under TIE_POLICY (rules R172, R173) -/

/-- At a tie the neighbour away from zero is RT's value, and the one toward zero the other value admitted. -/
theorem admitsTenths_tieNeighbour {v : Int} (ht : isTie v = true) (away : Bool) :
    AdmitsTenths .either v (tieNeighbour v away) := by
  have hmod : v.natAbs % 10 = 5 := beq_iff_eq.mp ht
  cases away with
  | true =>
    left
    rw [tieNeighbour, show v.natAbs / 10 + (if true then 1 else 0) = (v.natAbs + 5) / 10 by rw [if_pos rfl]; omega]
  | false => exact .inr ⟨rfl, hmod, rfl⟩

theorem admitsTenths_roundTenths (v : Int) (s : State) :
    AdmitsTenths s.params.tiePolicy v (roundTenths v s).1 := by
  unfold roundTenths
  split
  · exact .inl rfl
  · next hpol =>
    split
    · next ht => exact hpol ▸ admitsTenths_tieNeighbour ht _
    · exact .inl rfl

/-- A decoder that rounds answers admitted tenths, and changes nothing else but the count of free values. -/
theorem roundedAnswer_eq_deliver (e : Int) (s : State) : ∃ v draws,
    roundedAnswer e s = { s with draws := draws }.deliver { status := .ok, value := some v, exact := some e } ∧
      AdmitsTenths s.params.tiePolicy e v := by
  obtain ⟨draws, hdraws⟩ := roundTenths_state e s
  exact ⟨(roundTenths e s).1, draws, by rw [roundedAnswer, hdraws], admitsTenths_roundTenths e s⟩

/-- Settles O19: the exact hundredths by their formula, and the value by `roundedAnswer_eq_deliver`. -/
theorem temperatureAnswers : Obligations.TemperatureAnswers := by
  intro s b1 b0 hs
  rw [← temperatureExact_formula]
  obtain ⟨v, draws, hanswer, hadmits⟩ := roundedAnswer_eq_deliver (temperatureExact b1 b0) s
  exact ⟨v, draws, hanswer ▸ hostOp_legal _ hs rfl, hadmits⟩

/-- Settles O20: as for the temperature, with the formula of rule R179. -/
theorem precipitationAnswers : Obligations.PrecipitationAnswers := by
  intro s b2 b1 b0 hs
  rw [← precipitationExact_formula]
  obtain ⟨v, draws, hanswer, hadmits⟩ := roundedAnswer_eq_deliver (precipitationExact b2 b1 b0) s
  exact ⟨v, draws, hanswer ▸ hostOp_legal _ hs rfl, hadmits⟩

/-! ### The decoders that do not round -/

/-- Settles O21: each is taken in IDLE and delivers its formula's value. -/
theorem unroundedDecodersAnswer : Obligations.UnroundedDecodersAnswer := by
  intro s b2 b1 b0 hs
  rw [← pressureValue_formula, ← windSpeedValue_formula, ← humidityValue_formula]
  exact ⟨hostOp_legal _ hs rfl, hostOp_legal _ hs rfl, hostOp_legal _ hs rfl⟩

theorem legalWindDirection_iff {n : BitVec 2} {b2 b1 : Byte} :
    legalWindDirection n b2 b1 = true ↔ (n = 1 ∧ b2 = 0 ∧ b1 = 0) ∨ n = 3 := by
  rw [legalWindDirection_eq, windDirectionOperands, decide_eq_true_iff]

/-- The compass index of every nibble is an index of the table (rule R178). -/
theorem compassAt_eq_getElem (i : Nibble) : some (compassAt i) = ([.n, .nne, .ne, .ene, .e, .ese, .se, .sse, .s, .ssw,
    .sw, .wsw, .w, .wnw, .nw, .nnw] : List Compass)[i.toNat]? := by
  revert i
  decide

/-- Settles O22: legal operands are answered with the bearing and the compass index, any other refused. -/
theorem windDirectionAnswers : Obligations.WindDirectionAnswers := by
  intro s n b2 b1 b0 hs
  rw [← legalWindDirection_iff, ← bearingValue_formula, ← hi_eq_ofNat, ← hiN_eq]
  exact ⟨fun hl => ⟨_, hostOp_legal _ hs hl, rfl, compassAt_eq_getElem (hi b0)⟩,
    fun hl => hostOp_illegal _ hs (Bool.not_eq_true _ ▸ hl)⟩

theorem tendencyAt_eq_getElem (i : Nibble) :
    tendencyAt i = ([.steady, .rising, .falling] : List Tendency)[i.toNat]? := by
  revert i
  decide

theorem forecastAt_eq_getElem (i : Nibble) :
    forecastAt i = ([.rainy, .cloudy, .sunny] : List Forecast)[i.toNat]? := by
  revert i
  decide

/-- Settles O23: the range check of rule R181 by cases, and the labels by their tables. -/
theorem tendencyForecastAnswers : Obligations.TendencyForecastAnswers := by
  intro s b0 hs
  have hexec : exec (.decodeTendencyForecast b0) s = _ := hostOp_legal _ hs rfl
  rw [hexec, ← hi_eq_ofNat, ← lo_eq_ofNat, ← hiN_eq, ← loN_eq]
  refine ⟨fun hhi hlo => ?_, fun hout => ?_⟩
  · rw [if_neg (by omega)]
    exact ⟨_, rfl, rfl, tendencyAt_eq_getElem (hi b0), forecastAt_eq_getElem (lo b0)⟩
  · rw [if_pos hout]

/-! ### Ignored bits (rule R183) -/

theorem windSpeedValue_congr {b1 c1 : Byte} (h : b1.toNat % 16 = c1.toNat % 16) (b0 : Byte) :
    windSpeedValue b1 b0 = windSpeedValue c1 b0 := by
  rw [windSpeedValue, windSpeedValue, loN_eq, loN_eq, h]

theorem pressureValue_congr {b2 c2 : Byte} (h : b2.toNat % 16 = c2.toNat % 16) (b1 b0 : Byte) :
    pressureValue b2 b1 b0 = pressureValue c2 b1 b0 := by
  rw [pressureValue, pressureValue, loN_eq b2, loN_eq c2, h]

/-- DECODE_WIND_DIRECTION on legal operands reads the high nibble of b0 alone. -/
theorem exec_decodeWindDirection_congr {n m : BitVec 2} {b2 b1 b0 c2 c1 c0 : Byte}
    (hb : legalWindDirection n b2 b1 = true) (hc : legalWindDirection m c2 c1 = true)
    (h : b0.toNat / 16 = c0.toNat / 16) (s : State) :
    exec (.decodeWindDirection n b2 b1 b0) s = exec (.decodeWindDirection m c2 c1 c0) s := by
  have hhi : hi b0 = hi c0 := by rw [hi_eq_ofNat, hi_eq_ofNat, h]
  rw [exec, execDecodeWindDirection, hb, hhi, exec, execDecodeWindDirection, hc]

/-- Settles O33: wind speed and pressure answer a value that the ignored bits do not change, and wind direction reads the
high nibble of b0 alone. -/
theorem ignoredBitsHaveNoEffect : Obligations.IgnoredBitsHaveNoEffect := by
  intro s b2 b1 b0 c2 c1 c0
  refine ⟨fun h => ?_, fun h => ⟨?_, ?_⟩, fun h => ?_⟩
  · rw [exec, execDecodeWindSpeed, windSpeedValue_congr h]
    rfl
  · exact exec_decodeWindDirection_congr rfl rfl h s
  · exact exec_decodeWindDirection_congr rfl rfl h s
  · rw [exec, execDecodePressure, pressureValue_congr h]
    rfl

/-! ### The rounding primitive (rule R171) -/

section
variable {x : ℚ}

/-- Half away from zero is symmetric. -/
theorem roundDec_neg (x : ℚ) (n : Nat) : roundDec (-x) n = -roundDec x n := by
  unfold roundDec
  rw [abs_neg]
  obtain hx | rfl | hx := lt_trichotomy x 0
  · simp [hx, hx.not_gt, neg_div]
  · simp
  · simp [hx, hx.not_gt, neg_div]

/-- On a magnitude the rounding is half up. -/
theorem roundDec_of_nonneg (hx : 0 ≤ x) (n : Nat) : roundDec x n = (⌊x * 10 ^ n + 1 / 2⌋ : ℚ) / 10 ^ n := by
  obtain rfl | hpos := hx.eq_or_lt
  · norm_num [roundDec]
  · simp [roundDec, hpos, hpos.not_gt, abs_of_pos hpos]

/-- The integer part passes through the floor. -/
theorem roundDec_eq_floor_add_fract (hx : 0 ≤ x) (n : Nat) :
    roundDec x n = (⌊x⌋ : ℚ) + (⌊Int.fract x * 10 ^ n + 1 / 2⌋ : ℚ) / 10 ^ n := by
  have hsplit : x * 10 ^ n + 1 / 2 = ((⌊x⌋ * 10 ^ n : ℤ) : ℚ) + (Int.fract x * 10 ^ n + 1 / 2) := by
    nth_rw 1 [← Int.floor_add_fract x]
    push_cast
    ring
  rw [roundDec_of_nonneg hx, hsplit, Int.floor_intCast_add]
  push_cast
  field_simp

/-- A number of n decimal places is its own rounding. -/
theorem roundDec_of_decimal {k : ℤ} (hk : 0 ≤ k) (n : Nat) : roundDec ((k : ℚ) / 10 ^ n) n = (k : ℚ) / 10 ^ n := by
  have hfloor : ⌊(k : ℚ) / 10 ^ n * 10 ^ n + 1 / 2⌋ = k := by
    rw [div_mul_cancel₀ _ (by positivity), Int.floor_intCast_add]
    norm_num
  rw [roundDec_of_nonneg (by positivity), hfloor]

theorem roundDec_idem_of_nonneg (hx : 0 ≤ x) (n : Nat) : roundDec (roundDec x n) n = roundDec x n := by
  rw [roundDec_of_nonneg hx]
  exact roundDec_of_decimal (Int.floor_nonneg.mpr (by positivity)) n

end

/-- Settles O27: on magnitudes by the floor's lemmas, and below zero by symmetry. -/
theorem roundingIsSourceProcedure : Obligations.RoundingIsSourceProcedure := by
  intro x n
  obtain hx | hx := le_or_gt 0 x
  · rw [if_neg hx.not_gt, one_mul, abs_of_nonneg hx]
    exact ⟨roundDec_eq_floor_add_fract hx n, roundDec_idem_of_nonneg hx n⟩
  · obtain ⟨y, rfl⟩ : ∃ y, x = -y := ⟨-x, (neg_neg x).symm⟩
    have hy : 0 ≤ y := (neg_lt_zero.mp hx).le
    rw [if_pos hx, neg_one_mul, abs_neg, abs_of_nonneg hy, roundDec_neg, roundDec_neg]
    exact ⟨congrArg Neg.neg (roundDec_eq_floor_add_fract hy n), congrArg Neg.neg (roundDec_idem_of_nonneg hy n)⟩

/-! ### RT (rule R172) -/

theorem rt_neg (v : Int) : rt (-v) = -rt v := by
  rw [rt, rt, Int.sign_neg, Int.natAbs_neg, neg_mul]

theorem rt_natCast (m : Nat) : rt m = ((m + 5) / 10 : Nat) := by
  cases m with
  | zero => rfl
  | succ m => rw [rt, Int.sign_natCast_of_ne_zero m.succ_ne_zero, one_mul, Int.natAbs_natCast]

/-- RT on a magnitude is the rounding primitive: (m / 100) * 10 + 1 / 2 = (m + 5) / 10. -/
theorem rt_natCast_eq_roundDec (m : Nat) : (rt m : ℚ) / 10 = roundDec ((m : ℚ) / 100) 1 := by
  have hfloor : ⌊(m : ℚ) / 100 * 10 ^ 1 + 1 / 2⌋ = ((m + 5) / 10 : Nat) := by
    rw [show (m : ℚ) / 100 * 10 ^ 1 + 1 / 2 = ((m + 5 : Nat) : ℚ) / (10 : Nat) by push_cast; ring]
    exact Rat.floor_natCast_div_natCast _ _
  rw [rt_natCast, roundDec_of_nonneg (by positivity), hfloor, pow_one]

/-- Settles O26: on magnitudes by `rt_natCast_eq_roundDec`, and below zero since both roundings are symmetric. -/
theorem tenthsAreOneDecimalRounding : Obligations.TenthsAreOneDecimalRounding := by
  intro v
  obtain ⟨m, rfl | rfl⟩ := v.eq_nat_or_neg
  · exact rt_natCast_eq_roundDec m
  · rw [rt_neg, Int.cast_neg, Int.cast_neg, neg_div, neg_div, roundDec_neg]
    exact congrArg Neg.neg (rt_natCast_eq_roundDec m)

end Sys2Proof.Machine

/-! PROOFS. The statements of the family 60_exceptions.md. -/

namespace Sys2Proof.Machine

/-! ### Trace (rule R222): a function of the state that ignores the trace -/

/-- `f` ignores the trace: run without it, `f` answers what it answers with it, less the trace. -/
def IgnoresTrace (f : State → Result) : Prop := ∀ s, f s.untraced = untracedOutcome (f s)

@[simp] theorem untracedOutcome_next (s : State) : untracedOutcome (.next s) = .next s.untraced := rfl

theorem untracedOutcome_ite (p : Prop) [Decidable p] (x y : Result) :
    untracedOutcome (if p then x else y) = if p then untracedOutcome x else untracedOutcome y := apply_ite ..

section
variable {s : State}

/-! Forgetting the trace leaves every other field as it is. -/

@[simp] theorem State.untraced_st (s : State) : s.untraced.st = s.st := rfl
@[simp] theorem State.untraced_regs (s : State) : s.untraced.regs = s.regs := rfl
@[simp] theorem State.untraced_traceEn (s : State) : s.untraced.traceEn = false := rfl
@[simp] theorem State.untraced_resetIn (s : State) : s.untraced.resetIn = s.resetIn := rfl
@[simp] theorem State.untraced_ch (s : State) : s.untraced.ch = s.ch := rfl
@[simp] theorem State.untraced_requests (s : State) : s.untraced.requests = s.requests := rfl
@[simp] theorem State.untraced_params (s : State) : s.untraced.params = s.params := rfl
@[simp] theorem State.untraced_draws (s : State) : s.untraced.draws = s.draws := rfl

/-! Each update of the state may be made before or after the trace is forgotten. -/

@[simp] theorem State.emit_untraced (s : State) (ev : TraceEvent) : s.untraced.emit ev = (s.emit ev).untraced := by
  cases s with
  | mk st regs traceEn => cases traceEn <;> rfl
@[simp] theorem State.setRegs_untraced (s : State) (g : Regs) : s.untraced.setRegs g = (s.setRegs g).untraced := rfl
@[simp] theorem State.goto_untraced (s : State) (q : SeqState) : s.untraced.goto q = (s.goto q).untraced := rfl
@[simp] theorem State.waited_untraced (s : State) (ms : Nat) : s.untraced.waited ms = (s.waited ms).untraced := rfl
@[simp] theorem State.readAt_untraced (s : State) (e : RdEvent) (rest : List RdEvent) :
    s.untraced.readAt e rest = (s.readAt e rest).untraced := rfl
@[simp] theorem State.written_untraced (s : State) (b : Byte) (r : IoResult) (rest : List IoResult) :
    s.untraced.written b r rest = (s.written b r rest).untraced := rfl
@[simp] theorem State.flushed_untraced (s : State) (r : IoResult) (rest : List IoResult) :
    s.untraced.flushed r rest = (s.flushed r rest).untraced := by cases r <;> rfl
@[simp] theorem State.takeReset_untraced (s : State) : s.untraced.takeReset = s.takeReset.untraced := rfl
@[simp] theorem State.raise_untraced (s : State) (e : LocalError) : s.untraced.raise e = (s.raise e).untraced := by
  simp [State.raise]
@[simp] theorem State.deliver_untraced (s : State) (r : Resp) : s.untraced.deliver r = (s.deliver r).untraced :=
  State.emit_untraced { s with responses := r :: s.responses } _
@[simp] theorem State.respond_untraced (s : State) (r : Resp) : s.untraced.respond r = (s.respond r).untraced := by
  rw [State.respond, State.deliver_untraced]
  rfl

/-! The shared operations ignore the trace if what they go on with does. -/

theorem need_untraced {α : Type} {r : RegName} {o : Option α} {k k' : α → Result}
    (hk : ∀ v, k' v = untracedOutcome (k v)) : need r o k' = untracedOutcome (need r o k) := by
  cases o with
  | none => rfl
  | some v => exact hk v

theorem chFlush_untraced {k k' : IoResult → State → Result} (hk : ∀ r t, k' r t.untraced = untracedOutcome (k r t)) :
    chFlush s.untraced k' = untracedOutcome (chFlush s k) := by
  unfold chFlush
  rw [State.untraced_ch]
  cases s.ch.isOpen with
  | false => rfl
  | true =>
    cases s.ch.flushes with
    | nil => rfl
    | cons r rest => simp [hk]

theorem chWrite_untraced {b : Byte} {k k' : IoResult → State → Result}
    (hk : ∀ r t, k' r t.untraced = untracedOutcome (k r t)) :
    chWrite b s.untraced k' = untracedOutcome (chWrite b s k) := by
  unfold chWrite
  rw [State.untraced_ch]
  cases s.ch.isOpen with
  | false => rfl
  | true =>
    cases s.ch.writes with
    | nil => rfl
    | cons r rest => simp [hk]

theorem chRead_untraced {kb : Byte → State → Result} {kn : RdResult → State → Result} (hb : ∀ v, IgnoresTrace (kb v))
    (hn : ∀ r, IgnoresTrace (kn r)) :
    (chRead s.untraced fun r u => match r with | .byte v => kb v u | r => kn r u) =
      untracedOutcome (chRead s fun r u => match r with | .byte v => kb v u | r => kn r u) := by
  unfold chRead
  rw [State.untraced_ch]
  cases s.ch.isOpen with
  | false => rfl
  | true =>
    cases s.ch.reads with
    | nil => rfl
    | cons e rest =>
      cases hr : (readFrom s.ch.rxBuf e).1 with
      | byte v => simp [hr, hb v (s.readAt e rest)]
      | timeout | ioerr => simp [hr, hn _ (s.readAt e rest)]

theorem hostOp_untraced {legal : Bool} {k k' : Result} (hk : k' = untracedOutcome k) :
    hostOp legal s.untraced k' = untracedOutcome (hostOp legal s k) := by
  simp only [hostOp, untracedOutcome_ite, untracedOutcome_next, State.deliver_untraced, State.untraced_st, hk]
  rfl

end

/-! ### Each sequencer step ignores the trace -/

theorem attStart_ignoresTrace : IgnoresTrace attStart := fun s =>
  need_untraced fun a => need_untraced fun w => by simp

theorem hsFlush_ignoresTrace : IgnoresTrace hsFlush := fun s =>
  chFlush_untraced fun r t => by cases r <;> simp

theorem hsReset_ignoresTrace : IgnoresTrace hsReset := fun s =>
  chWrite_untraced fun r t => by cases r <;> simp

theorem pollByte_ignoresTrace (v : Byte) : IgnoresTrace (pollByte v) := fun s =>
  need_untraced fun p => by cases cls v <;> simp [untracedOutcome_ite]

theorem pollNoByte_ignoresTrace (r : RdResult) : IgnoresTrace (pollNoByte r) := fun s =>
  need_untraced fun p => by simp

theorem hsBackoff_ignoresTrace : IgnoresTrace hsBackoff := fun s =>
  need_untraced fun n => by simp [untracedOutcome_ite]

theorem cmdSend_ignoresTrace : IgnoresTrace cmdSend := fun s =>
  need_untraced fun q => need_untraced fun b => chWrite_untraced fun r t => by cases r <;> simp

theorem echoMatched_ignoresTrace (q : Nat) : IgnoresTrace (echoMatched q) := fun s =>
  need_untraced fun len => by simp [untracedOutcome_ite]

theorem echoByte_ignoresTrace (v : Byte) : IgnoresTrace (echoByte v) := fun s =>
  need_untraced fun q => need_untraced fun c => by
    simp [untracedOutcome_ite, echoMatched_ignoresTrace q _]

theorem echoNoByte_ignoresTrace (r : RdResult) : IgnoresTrace (echoNoByte r) := fun s =>
  need_untraced fun q => by simp

theorem dataByte_ignoresTrace (v : Byte) : IgnoresTrace (dataByte v) := fun s =>
  need_untraced fun k => need_untraced fun w => by
    by_cases h3 : k < 3
    · simp [h3]
    · simp [h3, untracedOutcome]

theorem dataNoByte_ignoresTrace (r : RdResult) : IgnoresTrace (dataNoByte r) := fun s =>
  need_untraced fun k => by simp

theorem chkByte_ignoresTrace (c : Byte) : IgnoresTrace (chkByte c) := fun s =>
  need_untraced fun w => need_untraced fun d => by
    cases hc : chkOk d c with
    | true => exact need_untraced fun n => by simp
    | false => simp

theorem chkNoByte_ignoresTrace (r : RdResult) : IgnoresTrace (chkNoByte r) := fun s => by
  simp [chkNoByte]

theorem attFail_ignoresTrace : IgnoresTrace attFail := fun s =>
  need_untraced fun n => by simp [untracedOutcome_ite]

/-! ### Each host operation ignores the trace -/

/-- The rounding reads the parameters and the counter of free values alone (rules R172, R173). -/
theorem roundTenths_untraced (v : Int) (s : State) :
    roundTenths v s.untraced = ((roundTenths v s).1, (roundTenths v s).2.untraced) := by
  unfold roundTenths
  rw [State.untraced_params, State.untraced_draws]
  split
  · rfl
  · split <;> rfl

theorem roundedAnswer_untraced (v : Int) (s : State) : roundedAnswer v s.untraced = (roundedAnswer v s).untraced := by
  simp only [roundedAnswer, roundTenths_untraced, State.deliver_untraced]

theorem execRead_ignoresTrace (n : Nibble) (a : Addr) : IgnoresTrace (execRead n a) := fun s =>
  hostOp_untraced (by
    simp only [untracedOutcome_ite, State.untraced_ch]
    simp [untracedOutcome])

/-- READ is accepted, and each pure operation answered, with the trace or without. -/
theorem exec_ignoresTrace {i : Instr} (hi : i.standsAt .request = true) : IgnoresTrace (exec i) := fun s => by
  cases i <;> simp [Instr.standsAt] at hi
  case read n a => exact execRead_ignoresTrace n a s
  case decodeTemperature | decodePrecipitation => exact hostOp_untraced (by simp [roundedAnswer_untraced])
  all_goals exact hostOp_untraced (by simp)

theorem idleStep_ignoresTrace : IgnoresTrace idleStep := fun s => by
  cases hq : s.requests with
  | nil => simp [idleStep, hq]
  | cons w rest =>
    have hq' : s.untraced.requests = w :: rest := hq
    cases hd : decode .request (.request w) with
    | ok i =>
      rw [idleStep_of_decode hq hd, idleStep_of_decode hq' hd]
      exact exec_ignoresTrace (standsAt_of_decodeRequest hd) { s with requests := rest }
    | error e =>
      rw [idleStep_of_error hq hd, idleStep_of_error hq' hd]
      exact congrArg Host.Outcome.next (State.deliver_untraced { s with requests := rest } refusal)

/-! ### The step ignores the trace -/

theorem step_ignoresTrace : IgnoresTrace step := fun s => by
  cases hr : s.resetIn with
  | true => simp [step, hr]
  | false =>
    have hr' : s.untraced.resetIn = false := hr
    cases hs : s.st
    case idle => rw [step_idle hr hs, step_idle hr' hs, idleStep_ignoresTrace]
    case attStart => rw [step_attStart hr hs, step_attStart hr' hs, attStart_ignoresTrace]
    case hsFlush => rw [step_hsFlush hr hs, step_hsFlush hr' hs, hsFlush_ignoresTrace]
    case hsReset => rw [step_hsReset hr hs, step_hsReset hr' hs, hsReset_ignoresTrace]
    case hsPoll =>
      rw [step_hsPoll hr hs, step_hsPoll hr' hs]
      exact chRead_untraced pollByte_ignoresTrace pollNoByte_ignoresTrace
    case hsBackoff => rw [step_hsBackoff hr hs, step_hsBackoff hr' hs, hsBackoff_ignoresTrace]
    case cmdSend => rw [step_cmdSend hr hs, step_cmdSend hr' hs, cmdSend_ignoresTrace]
    case cmdEcho =>
      rw [step_cmdEcho hr hs, step_cmdEcho hr' hs]
      exact chRead_untraced echoByte_ignoresTrace echoNoByte_ignoresTrace
    case dataRead =>
      rw [step_dataRead hr hs, step_dataRead hr' hs]
      exact chRead_untraced dataByte_ignoresTrace dataNoByte_ignoresTrace
    case chkRead =>
      rw [step_chkRead hr hs, step_chkRead hr' hs]
      exact chRead_untraced chkByte_ignoresTrace chkNoByte_ignoresTrace
    case attFail => rw [step_attFail hr hs, step_attFail hr' hs, attFail_ignoresTrace]
    case unused => simp [step, hr, hs, untracedOutcome]

/-- Settles O53: both steps are the step of the one state that is left when the trace is forgotten. -/
theorem traceHasNoEffect : Obligations.TraceHasNoEffect := by
  intro s t h
  rw [← step_ignoresTrace s, ← step_ignoresTrace t, h]

/-! ### Local errors raised -/

/-- Settles O50: `raise` writes LAST_ERR and `st`, and emits its event between the two. -/
theorem raiseSavesOnlyTheKind : Obligations.RaiseSavesOnlyTheKind := by
  intro s e
  rw [State.raise, State.emit_eq]
  rfl

/-- The state after a read that returned `r` and left `buf` in the receive buffer. -/
theorem State.readAt_eq {s : State} {e : RdEvent} {r : RdResult} {buf : List Byte} (h : readFrom s.ch.rxBuf e = (r, buf))
    (rest : List RdEvent) :
    s.readAt e rest = { s with ch := { s.ch with reads := rest, rxBuf := buf, log := .read r :: s.ch.log } } := by
  rw [State.readAt, h]

/-- A reading state whose read returns no byte goes on with `kn` (rule R213). -/
theorem chRead_noByte {s : State} {e : RdEvent} {rest : List RdEvent} {r : RdResult} {buf : List Byte}
    {kb : Byte → State → Result} {kn : RdResult → State → Result} (ho : s.ch.isOpen = true) (hrd : s.ch.reads = e :: rest)
    (hread : readFrom s.ch.rxBuf e = (r, buf)) (hnone : r = .timeout ∨ r = .ioerr) :
    (chRead s fun r u => match r with | .byte v => kb v u | r => kn r u) = kn r (s.readAt e rest) := by
  rw [chRead_cons ho hrd, hread]
  obtain rfl | rfl := hnone <;> rfl

/-- Settles O49: each of the three reading states raises ChannelIo behind the event of its read. -/
theorem readFailureIsChannelIo : Obligations.ReadFailureIsChannelIo := by
  intro s e rest r buf at_ hr ho hrd hread hnone hphase
  have hstep : step s = .next (((s.readAt e rest).emit (.rx r s.st)).raise (.channelIo at_)) := by
    obtain ⟨hs, q, hq, rfl⟩ | ⟨hs, k, hk, rfl⟩ | ⟨hs, rfl⟩ := hphase
    · exact ((step_cmdEcho hr hs).trans (chRead_noByte ho hrd hread hnone)).trans (echoNoByte_next.mpr ⟨q, hq, rfl⟩)
    · exact ((step_dataRead hr hs).trans (chRead_noByte ho hrd hread hnone)).trans (dataNoByte_next.mpr ⟨k, hk, rfl⟩)
    · exact (step_chkRead hr hs).trans (chRead_noByte ho hrd hread hnone)
  rw [hstep, State.raise_emit_eq, State.readAt_eq hread]
  rfl

/-- Settles O45: the byte read is judged; and the one-byte command's echo is the parameter SPECIAL_ECHO. -/
theorem echoMismatchIsRaised : Obligations.EchoMismatchIsRaised := by
  refine ⟨fun s e rest q c v buf hr hs ho hq hc hrd hread he => ?_, fun p v hp => ?_⟩
  · rw [step_of_byte_read hr (.inr (.inl hs)) ho hrd hread, receiveByte_cmdEcho (s := s.readAt e rest) hs,
      State.readAt_eq hread]
    exact echoByte_mismatch hs hq hc he
  · rw [show expectedEcho p 0 0x06 = p.specialEcho from expectedEcho_special p, hp]
    simp

/-! ### The end of a READ -/

/-- DATA[0..w-1] is `w` bytes. -/
theorem dataBytes_length {d : Vector (Option Byte) 3} {w : Nat} {l : List Byte} (h : dataBytes d w = some l) :
    l.length = w := by
  induction w generalizing l with
  | zero => cases h; rfl
  | succ w ih =>
    rw [dataBytes] at h
    split at h
    · next hinit _ => cases h; simp [ih hinit]
    · cases h

section
variable {s t : State}

/-- The responses that end a READ in `s`: the data it asked for, after at most 49 failed attempts, or READ_EXHAUSTED
(rules R154, R155). -/
def EndsRead (s : State) (r : Resp) : Prop :=
  (r.status = .ok ∧ (∃ f, r.fails = some f ∧ f ≤ 49) ∧ r.n = some s.width ∧ r.bytes.length = s.width) ∨
    r = { status := .readExhausted, fails := some 50 }

/-- Of a READ's transitions its two ends go to IDLE with one response, and every other stays in the READ with none. -/
theorem Transition.silent_or_endsRead (h : Transition s t) (hi : s.Inv) (hs : s.st ≠ .idle) (hr : s.resetIn = false) :
    (t.st ≠ .idle ∧ t.responses = s.responses) ∨
      (t.st = .idle ∧ ∃ r, t.responses = r :: s.responses ∧ EndsRead s r) := by
  cases h with
  | blockReset h => simp [hr] at h
  | readStart h | answered h => exact absurd h hs
  | waiting => exact .inl ⟨hs, rfl⟩
  | polled _ _ _ _ hg => obtain ⟨-, rfl, -⟩ | ⟨-, rfl, -⟩ | ⟨rfl, -⟩ := hg <;> exact .inl ⟨by simp, by simp⟩
  | echoed _ _ _ _ _ _ _ hg => obtain ⟨-, rfl, -⟩ | ⟨-, rfl, -⟩ := hg <;> exact .inl ⟨by simp, by simp⟩
  | dataStored => exact .inl ⟨by rw [State.goto_st]; split <;> decide, by simp⟩
  | @succeeded _ _ _ w d n _ _ _ hw hd _ hn =>
    obtain ⟨_, _, _, hR⟩ := hi.readInProgress hs
    cases hR.failed.symm.trans hn
    have hwidth : s.width = w.toNat := by rw [State.width, hw, Option.getD_some]
    refine .inr ⟨by simp, { status := .ok, fails := some n, n := some w.toNat, bytes := d }, by simp, .inl ?_⟩
    exact ⟨rfl, ⟨n, rfl, Nat.le_of_lt_succ hR.budget⟩, congrArg some hwidth.symm,
      (dataBytes_length hd).trans hwidth.symm⟩
  | exhausted =>
    exact .inr ⟨by simp, { status := .readExhausted, fails := some 50 }, by simp [Config.readAttempts], .inr rfl⟩
  | _ => exact .inl ⟨by simp, by simp⟩

end

/-- Settles O56: every step is a transition, and only the two ends of a READ respond. -/
theorem readRespondsOnceAtItsEnd : Obligations.ReadRespondsOnceAtItsEnd :=
  fun _ _ hi hs hr h => (transition_of_step h).silent_or_endsRead hi hs hr

end Sys2Proof.Machine

/-! PROOFS. The statements of the family 70_reset_and_hazards.md. -/

namespace Sys2Proof.Machine

/-- An asserted block reset is taken in every sequencer state, before that state's own rule. -/
theorem step_of_blockReset {s : State} (h : s.resetIn = true) : step s = .next s.takeReset := by
  rw [step, if_pos h]

/-- Settles O10: the step is `State.takeReset`, which keeps the responses, the transcript and the environment's answers. -/
theorem blockResetAbandonsRequest : Obligations.BlockResetAbandonsRequest := by
  intro s h
  refine ⟨s.takeReset, step_of_blockReset h, s.takeReset_st, s.takeReset_regs, s.takeReset_responses, ?_⟩
  simp only [State.takeReset_ch, State.takeReset_params, State.takeReset_requests, and_self]

end Sys2Proof.Machine
